-- ==== Sys2Proof/Word.lean ====
section
/-! DEFINITION. The widths of the block's data (spec/00_scope.md rule R7): bytes, 16-bit values, operation words. -/

namespace Sys2Proof

/-- A byte: bit 7 most significant (rule R8). -/
abbrev Byte := BitVec 8

/-- A 16-bit value: the FCS register, a block number, the event vector. -/
abbrev Half := BitVec 16

/-- An input operation word (spec/30_encoding.md rule R54). -/
abbrev OpWord := BitVec 10

end Sys2Proof
end

