-- ==== Sys2Proof/Config.lean ====
section
/-! DEFINITION. What is fixed for one block: the build-time parameters of spec/00_scope.md rule R5 at the values
rule R5 gives them, and the free values of spec/93_implementation_defined.md. -/

namespace Sys2Proof.Config

/-- `FLAG`, the flag octet. -/
def flag : Byte := 0x7E

/-- `ESC`, the control-escape octet. -/
def escape : Byte := 0x7D

/-- `ESC_XOR`, XORed into the byte after an escape. -/
def escXor : Byte := 0x20

/-- `HDLC_HDR_LEN`. -/
@[simp] abbrev hdlcHdrLen : Nat := 8

/-- `HDLC_BUF_MAX`, the bytes the frame buffer holds, leading flag included. -/
@[simp] abbrev hdlcBufMax : Nat := 1024

/-- `FCS_SEED`. -/
def fcsSeed : Half := 0xFFFF

/-- `FCS_POLY_REFLECTED`: the spec's own mark is "from general knowledge, not in source" (G1, log 11). -/
def fcsPoly : Half := 0x8408

/-- First byte of `LLC_PREFIX`. -/
def llcFirst : Byte := 0xE6

/-- Second byte of `LLC_PREFIX`. -/
def llcSecond : Byte := 0xE7

/-- `LLC_LEN`. -/
@[simp] abbrev llcLen : Nat := 3

/-- `GBT_TAG`. -/
def gbtTag : Byte := 0xE0

/-- `GBT_HDR_LEN`. -/
@[simp] abbrev gbtHdrLen : Nat := 7

/-- `GBT_MAX_BLOCKS`. -/
@[simp] abbrev gbtMaxBlocks : Nat := 50

/-- `GBT_SLOT_BYTES`. -/
@[simp] abbrev gbtSlotBytes : Nat := 1024

/-- `APDU_CAP`. -/
@[simp] abbrev apduCap : Nat := 1024

/-- Where the spec leaves a byte unspecified: the three buffers after RESET (U1) and the two read ports beyond
their valid range (U3). -/
inductive FreeSite where
  | fbuf
  | slot
  | apdu
  | apduPort
  | framePort
deriving DecidableEq, Repr

/-- FREE VALUE (log 1): the unspecified byte of a site, for a draw number and an address. It has no body: a
statement that mentions it holds for every value. -/
opaque freeByte : FreeSite → Nat → Nat → Byte

/-- FREE VALUE (log 4): `frame_ok` of the frame event port while the port shows no frame, for a draw number. -/
opaque freeFrameOk : Nat → Bool

/-- FREE VALUE (log 4): `frame_len` of the frame event port while the port shows no frame, for a draw number. -/
opaque freeFrameLen : Nat → BitVec 10

/-- `STEP_LATENCY` (U7, 92_eei_decisions.md D22, OPEN): clocks an implementation takes per step. It affects only
`in_ready` in a cycle-level implementation; no rule of the transaction-level model reads it (log 8). -/
opaque stepLatency : Nat

end Sys2Proof.Config
end

