-- ==== Sys2Proof/Syntax.lean ====
section
/-! DEFINITION. The instructions: one constructor per row of spec/opcode_table.json. The rows of operation code 01
are the sub-operations of `BYTE d` (spec/30_encoding.md rule R57). -/

namespace Sys2Proof

/-- The input operations and the sub-operations of `BYTE`. `d` is the data byte of the word; the codes 00, 10 and 11
carry it so that no bit of a word is lost, and ignore it (rule R55). -/
inductive Instr where
  /-- IDLE, rule R137. -/
  | idle (d : Byte)
  /-- FLAG.OPEN, rule R78. -/
  | flagOpen
  /-- FLAG.HDR, rule R79. -/
  | flagHdr
  /-- FLAG.CLOSE, rule R80. -/
  | flagClose
  /-- ESC.SET, rule R81. -/
  | escSet
  /-- ESC.HDR, rule R82. -/
  | escHdr
  /-- UNESC, rule R83. -/
  | unesc (d : Byte)
  /-- DATA.STORE, rule R84. -/
  | dataStore (d : Byte)
  /-- OVERFLOW, rule R86. -/
  | overflow (d : Byte)
  /-- REASM_RESET, rule R139. -/
  | reasmReset (d : Byte)
  /-- RESET, rule R138. -/
  | reset (d : Byte)
deriving DecidableEq, Repr

end Sys2Proof
end

