-- ==== Sys2Proof/WellFormed.lean ====
section
/-! DEFINITION. Which instruction terms some word and some deframer state decode to, as far as the operands alone
decide it (spec/30_encoding.md rule R57). -/

namespace Sys2Proof

/-- The operand check. DATA.STORE and OVERFLOW stand for a byte that no earlier row of rule R57 takes: a flag (with
`esc = 0`) and an escape byte always match an earlier row. Every other row admits every operand. -/
def Instr.wf : Instr → Bool
  | .idle _ => true
  | .flagOpen => true
  | .flagHdr => true
  | .flagClose => true
  | .escSet => true
  | .escHdr => true
  | .unesc _ => true
  | .dataStore d => d != Config.flag && d != Config.escape
  | .overflow d => d != Config.flag && d != Config.escape
  | .reasmReset _ => true
  | .reset _ => true

end Sys2Proof
end

