-- ==== Sys2Proof/Decode.lean ====
section
/-! DEFINITION. The decoder of operation words (spec/30_encoding.md rules R54, R55, R57 and spec/40_deframer.md rule
R77) and, after it, the encoder. Decoding a `BYTE` word needs two registers of the deframer, `pos` and `esc`. -/

namespace Sys2Proof

/-- `op = w[9:8]` (rule R54). -/
def opField (w : OpWord) : BitVec 2 := w.extractLsb' 8 2

/-- `d = w[7:0]` (rule R54). -/
def dataField (w : OpWord) : Byte := w.extractLsb' 0 8

/-- Why the decoder turns a number away. -/
inductive Reject where
  /-- The number has a bit above bit 9: no operation word (rule R54). Safe: no pin of the block carries it. -/
  | notAnOperationWord (w : Nat)
deriving DecidableEq, Repr

/-- The sub-operation that `BYTE d` selects, in the order of rule R77. The last two rows are the opcode table's
DATA.STORE (`pos <= 1023`) and OVERFLOW (`pos = 1024`). -/
def decodeByte (pos : Nat) (esc : Bool) (d : Byte) : Instr :=
  if d = Config.flag ∧ esc = false then
    if pos ≤ 1 then .flagOpen
    else if pos < 1 + Config.hdlcHdrLen then .flagHdr
    else .flagClose
  else if d = Config.escape ∧ 1 + Config.hdlcHdrLen ≤ pos then .escSet
  else if esc = true then .unesc d
  else if d = Config.escape then .escHdr
  else if Config.hdlcBufMax ≤ pos then .overflow d
  else .dataStore d

/-- The instruction a word stands for in the deframer state `pos`, `esc` (rule R55). Total: every word is legal
(rule R71). -/
def decode (pos : Nat) (esc : Bool) (w : OpWord) : Instr :=
  if opField w = 0 then .idle (dataField w)
  else if opField w = 1 then decodeByte pos esc (dataField w)
  else if opField w = 2 then .reasmReset (dataField w)
  else .reset (dataField w)

/-- Decoding of any number: a number of more than 10 bits is rejected by name. -/
def decodeNat (pos : Nat) (esc : Bool) (w : Nat) : Except Reject Instr :=
  if w < 2 ^ 10 then .ok (decode pos esc (BitVec.ofNat 10 w)) else .error (.notAnOperationWord w)

/-- The condition on the deframer state under which a row of the opcode table is the one taken: its column `when`,
with the priority of the earlier rows written out. -/
def Instr.selected (pos : Nat) (esc : Bool) : Instr → Bool
  | .idle _ => true
  | .flagOpen => !esc && decide (pos ≤ 1)
  | .flagHdr => !esc && decide (2 ≤ pos ∧ pos ≤ 8)
  | .flagClose => !esc && decide (9 ≤ pos)
  | .escSet => decide (9 ≤ pos)
  | .escHdr => !esc && decide (pos ≤ 8)
  | .unesc d => esc && !(d == Config.escape && decide (9 ≤ pos))
  | .dataStore _ => !esc && decide (pos ≤ 1023)
  | .overflow _ => !esc && decide (1024 ≤ pos)
  | .reasmReset _ => true
  | .reset _ => true

/-- What the decoder reads from a table word of `nbits` bits. A `BYTE` word's row depends on the deframer state: this
function answers for the state after reset, `pos = 0` and `esc = 0` (log 10). -/
def decodeTableWord (nbits w : Nat) : Option Instr :=
  match decodeNat 0 false (w % 2 ^ nbits) with
  | .ok i => some i
  | .error _ => none

/-- The word with a given operation code and data byte. -/
def opWord (op : BitVec 2) (d : Byte) : OpWord := op ++ d

/-- The word of an instruction (rule R55). -/
def encode : Instr → OpWord
  | .idle d => opWord 0 d
  | .flagOpen => opWord 1 Config.flag
  | .flagHdr => opWord 1 Config.flag
  | .flagClose => opWord 1 Config.flag
  | .escSet => opWord 1 Config.escape
  | .escHdr => opWord 1 Config.escape
  | .unesc d => opWord 1 d
  | .dataStore d => opWord 1 d
  | .overflow d => opWord 1 d
  | .reasmReset d => opWord 2 d
  | .reset d => opWord 3 d

end Sys2Proof
end

