-- ==== Sys2Proof/Machine/State.lean ====
section
/-! DEFINITION. The state of the block (spec/10_state.md rule R14), the output record of the step just taken (rule
R35), and the model's own fields, said as such. -/

namespace Sys2Proof.Machine

/-- One byte space: (address, byte) pairs, addresses strictly rising. An address that is not listed holds a byte the
spec leaves unspecified (log 1). -/
abbrev Memory := List Host.Cell

/-- The input pins of one step (spec/30_encoding.md rule R56). -/
structure Pins where
  rst : Bool
  reasmReset : Bool
  inValid : Bool
  inByte : Byte
deriving DecidableEq, Repr

/-- A frame event `Frame(payload, valid)` (spec/10_state.md rule R35). -/
structure FrameEvent where
  payload : List Byte
  valid : Bool
deriving DecidableEq, Repr

/-- What the frame event port shows of the last closed frame beside its bytes (spec/44_control.md rule R146). -/
structure FramePort where
  /-- `frame_len`, the payload's length. -/
  len : Nat
  /-- `frame_ok`, the `valid` bit. -/
  ok : Bool
deriving DecidableEq, Repr

/-- The state of the block between steps. -/
structure State where
  /-- The frame buffer (rule R15). -/
  fbuf : Memory
  /-- The buffer position, 0..1024 (rule R16). -/
  pos : Nat
  /-- The escape-state bit (rule R17). -/
  esc : Bool
  /-- The block list, byte (k, i) at address 1024*(k-1)+i (rule R21, log 6). -/
  slot : Memory
  /-- The number of stored blocks, 0..50 (rule R22). -/
  count : Nat
  /-- The complete flag (rule R24). -/
  complete : Bool
  /-- The APDU buffer (rule R25). -/
  apdu : Memory
  /-- The length of the last emitted APDU, 0..1024 (rule R26). -/
  apduLen : Nat
  /-- Output of the last step: the event vector (spec/60_exceptions.md rule R151; log 3). -/
  evt : Half
  /-- Output of the last step: the frame event (rule R35; log 3). -/
  frameEvt : Option FrameEvent
  /-- Output of the last step: the APDU given to the parser (spec/44_control.md rule R145; log 3). -/
  apduEvt : Option (List Byte)
  /-- What the frame event port still shows, from the closing step until the next `BYTE` step
  (spec/70_reset_and_hazards.md rule R178); none when the port is not valid (log 4). -/
  framePort : Option FramePort
  /-- The model's own: the pins the host presents in the coming steps, the next step's first (rule R33; log 2). -/
  inputs : List Pins
  /-- The model's own: the draw the unspecified buffer bytes come from (log 1). -/
  epoch : Nat
  /-- The model's own: how many draws have been taken (log 1). -/
  draws : Nat
deriving DecidableEq, Repr

/-- No constructor: "no state of the block is a fault state or a stuck state" (spec/60_exceptions.md rule R149). -/
inductive Fault where
deriving DecidableEq, Repr

/-- Why the model would not run an instruction. -/
inductive Refusal where
  /-- Raised by an arm of `exec` for an instruction without a meaning; no arm of this model raises it. Safe. -/
  | notModelled (mnemonic : String)
deriving DecidableEq, Repr

/-- The state right after RESET (spec/10_state.md rule R34, spec/70_reset_and_hazards.md rule R171): the registers 0,
the buffers unspecified, no output, and no operation presented. -/
def State.reset : State where
  fbuf := []
  pos := 0
  esc := false
  slot := []
  count := 0
  complete := false
  apdu := []
  apduLen := 0
  evt := 0
  frameEvt := none
  apduEvt := none
  framePort := none
  inputs := []
  epoch := 0
  draws := 1

end Sys2Proof.Machine
end

