-- ==== Sys2Proof/Machine/Flags.lean ====
section
/-! DEFINITION. The event vector's bits (spec/60_exceptions.md rule R151). The block has no arithmetic flags. -/

namespace Sys2Proof.Machine

/-- The event kinds. -/
inductive Event where
  | frameOk
  | frameBad
  | hdlcOverflow
  | nonGbt
  | blockMalformed
  | blockStored
  | seqMismatch
  | seqRestart
  | slotFull
  | apduTooLarge
  | apduEmit
  | reasmResetDone
deriving DecidableEq, Repr

/-- The bit number of an event in `evt[15:0]` (rule R151). -/
def Event.bit : Event → Nat
  | .frameOk => 0
  | .frameBad => 1
  | .hdlcOverflow => 2
  | .nonGbt => 3
  | .blockMalformed => 4
  | .blockStored => 5
  | .seqMismatch => 6
  | .seqRestart => 7
  | .slotFull => 8
  | .apduTooLarge => 9
  | .apduEmit => 10
  | .reasmResetDone => 11

/-- The vector with one event set. -/
def Event.mask (e : Event) : Half := 1#16 <<< e.bit

/-- The non-zero vectors a step without a combined REASM_RESET can produce (spec/60_exceptions.md rule R164). -/
def eventTable : List Half :=
  [0x0004, 0x0802, 0x0009, 0x0011, 0x0021, 0x0041, 0x00E1, 0x04E1, 0x0101, 0x0221, 0x0421, 0x0800]

/-- Whether the last step signalled an event. -/
def State.signalled (s : State) (e : Event) : Bool := s.evt.getLsbD e.bit

end Sys2Proof.Machine
end

