-- ==== Sys2Proof/Machine/Ops.lean ====
section
/-! DEFINITION. The named operations over memory, registers and pins: byte reads and writes of the three spaces,
`signal`, STORE and OVERFLOW of the deframer, the two resets of the reassembler, the pins of a step. -/

namespace Sys2Proof.Machine

/-- The byte listed at an address. -/
def Memory.read : Memory → Nat → Option Byte
  | [], _ => none
  | (c, v) :: rest, a => if a = c then some v else Memory.read rest a

/-- `MemWrite` of one byte (spec/00_scope.md rule R9), keeping the addresses rising. -/
def Memory.write : Memory → Nat → Byte → Memory
  | [], a, b => [(a, b)]
  | (c, v) :: rest, a, b =>
    if a < c then (a, b) :: (c, v) :: rest
    else if a = c then (a, b) :: rest
    else (c, v) :: Memory.write rest a b

/-- Writes of a byte sequence at consecutive addresses. -/
def Memory.writeBytes : Memory → Nat → List Byte → Memory
  | m, _, [] => m
  | m, a, b :: bs => Memory.writeBytes (m.write a b) (a + 1) bs

/-- The canonical form of a space of `size` bytes: addresses strictly rising, each inside the space. No byte is equal
to "unspecified", so a listed byte is never redundant. -/
abbrev Memory.wf (size : Nat) (m : Memory) : Prop :=
  m.Pairwise (fun c d => c.1 < d.1) ∧ ∀ c ∈ m, c.1 < size

/-- `fbuf[i]` (spec/20_memory.md rule R37); a byte nothing has written since RESET is unspecified (U1). -/
def State.fbufByte (s : State) (i : Nat) : Byte :=
  (s.fbuf.read i).getD (Config.freeByte .fbuf s.epoch i)

/-- Where byte `i` of slot `k` lies, `k` counted from 1 (log 6). -/
def slotAddr (k i : Nat) : Nat := (k - 1) * Config.gbtSlotBytes + i

/-- `slot[k][i]` (rule R37). -/
def State.slotByte (s : State) (k i : Nat) : Byte :=
  (s.slot.read (slotAddr k i)).getD (Config.freeByte .slot s.epoch (slotAddr k i))

/-- `apdu[i]` (rule R37). -/
def State.apduByte (s : State) (i : Nat) : Byte :=
  (s.apdu.read i).getD (Config.freeByte .apdu s.epoch i)

/-- `signal EVT_X` (spec/00_scope.md rule R9): the block's one way to report an error. It stops nothing and changes no
other state. -/
def State.signal (s : State) (e : Event) : State := { s with evt := s.evt ||| e.mask }

/-- OVERFLOW (spec/40_deframer.md rule R86): the frame in progress is lost. -/
def State.overflowFrame (s : State) : State :=
  State.signal { s with pos := 0, esc := false } .hdlcOverflow

/-- STORE (spec/40_deframer.md rule R85). -/
def State.store (s : State) (v : Byte) : State :=
  if Config.hdlcBufMax ≤ s.pos then s.overflowFrame
  else { s with fbuf := s.fbuf.write s.pos v, pos := s.pos + 1 }

/-- SEQ_RESET (spec/43_reassembler.md rule R118). -/
def State.seqReset (s : State) : State := { s with count := 0 }

/-- REASM_FULL_RESET (spec/43_reassembler.md rule R119). -/
def State.reasmFullReset (s : State) : State :=
  State.signal { s with count := 0, complete := false } .reasmResetDone

/-- RESET (spec/44_control.md rule R138): the registers 0 and the buffers unspecified, a new draw (U1). The frame port,
whose bytes were in the frame buffer, is not valid afterwards (spec/70_reset_and_hazards.md rule R178, log 4). -/
def State.resetBlock (s : State) : State :=
  { s with
    pos := 0, esc := false, count := 0, complete := false, apduLen := 0,
    fbuf := [], slot := [], apdu := [], framePort := none,
    epoch := s.draws, draws := s.draws + 1 }

/-- No pin asserted. -/
def quietPins : Pins := ⟨false, false, false, 0⟩

/-- The operation words one step performs, in order (spec/30_encoding.md rule R56, spec/44_control.md rule R136). -/
def pinWords (p : Pins) : List OpWord :=
  if p.rst then [opWord 3 p.inByte]
  else if p.reasmReset && p.inValid then [opWord 2 p.inByte, opWord 1 p.inByte]
  else if p.reasmReset then [opWord 2 p.inByte]
  else if p.inValid then [opWord 1 p.inByte]
  else [opWord 0 p.inByte]

/-- The pins that present one operation word (rule R56). -/
def wordPins (w : OpWord) : Pins :=
  ⟨decide (opField w = 3), decide (opField w = 2), decide (opField w = 1), dataField w⟩

/-- The pins of the coming step; with no operation presented they are quiet, which is IDLE. -/
def State.nextPins (s : State) : Pins := s.inputs.headD quietPins

/-- Whether the pins make the step consume a byte (rule R136: `rst` overrides). -/
def consumesByte (p : Pins) : Bool := p.inValid && !p.rst

/-- The start of a step (rule R136): the pins are taken, the last step's outputs are replaced, and a `BYTE` step ends
the frame port's validity (spec/70_reset_and_hazards.md rule R178). -/
def State.beginStep (s : State) : State :=
  { s with
    inputs := s.inputs.tail,
    evt := 0, frameEvt := none, apduEvt := none,
    framePort := if consumesByte s.nextPins then none else s.framePort,
    draws := s.draws + 1 }

end Sys2Proof.Machine
end

