-- ==== Sys2Proof/Machine/Control.lean ====
section
/-! DEFINITION. The meanings of IDLE, REASM_RESET and RESET (spec/44_control.md rules R137 to R139). The data byte of
their words is ignored (spec/30_encoding.md rule R55). -/

namespace Sys2Proof.Machine

/-- IDLE (rule R137). -/
def execIdle (_d : Byte) (s : State) : Host.Outcome State Fault Refusal := .next s

/-- REASM_RESET (rule R139). -/
def execReasmReset (_d : Byte) (s : State) : Host.Outcome State Fault Refusal := .next s.reasmFullReset

/-- RESET (rule R138). -/
def execReset (_d : Byte) (s : State) : Host.Outcome State Fault Refusal := .next s.resetBlock

end Sys2Proof.Machine
end

