-- ==== Sys2Proof/Machine/Operands.lean ====
section
/-! DEFINITION. The operand forms: byte order, the closed frame's payload and stored FCS, the router's cursor, the
fields of a GBT block and the contents of the slots. -/

namespace Sys2Proof.Machine

/-- `u16be(hi, lo)` (spec/00_scope.md rule R8). -/
def u16be (hi lo : Byte) : Half := hi ++ lo

/-- `swap16(v)` (rule R8). -/
def swap16 (v : Half) : Half := v.extractLsb' 0 8 ++ v.extractLsb' 8 8

/-- The frame buffer's bytes `a .. a+n-1`. -/
def State.fbufSlice (s : State) (a n : Nat) : List Byte := (List.range' a n).map s.fbufByte

/-- The payload of the frame being closed, `fbuf[1..n-3]` (spec/30_encoding.md rule R62). -/
def State.payload (s : State) : List Byte := s.fbufSlice 1 (s.pos - 3)

/-- The stored FCS field (spec/30_encoding.md rule R61). -/
def State.storedFcs (s : State) : Half := u16be (s.fbufByte (s.pos - 2)) (s.fbufByte (s.pos - 1))

/-- Whether the LLC header follows the frame header (spec/42_router.md rule R108). -/
def hasLlc (p : List Byte) : Bool :=
  p[Config.hdlcHdrLen]? == some Config.llcFirst && p[Config.hdlcHdrLen + 1]? == some Config.llcSecond

/-- The router's cursor (spec/42_router.md rules R107, R108). -/
def cursor (p : List Byte) : Nat :=
  if hasLlc p then Config.hdlcHdrLen + Config.llcLen else Config.hdlcHdrLen

/-- The block number `bn` of a block (spec/30_encoding.md rule R66). -/
def blockNumber (B : List Byte) : Half := u16be (B.getD 2 0) (B.getD 3 0)

/-- The last-block bit (spec/30_encoding.md rule R65). -/
def isLast (B : List Byte) : Bool := (B.getD 1 0).getLsbD 7

/-- The content length `L` (spec/30_encoding.md rule R67). -/
def contentLen (B : List Byte) : Nat := (B.getD 6 0).toNat

/-- The admission check (spec/43_reassembler.md rule R117). -/
def malformed (B : List Byte) : Bool :=
  decide (B.length < Config.gbtHdrLen) || decide (B.length < Config.gbtHdrLen + contentLen B)

/-- The content length of the block in slot `k` (spec/43_reassembler.md rule R124). -/
def State.slotLen (s : State) (k : Nat) : Nat := (s.slotByte k 6).toNat

/-- The content of the block in slot `k` (spec/43_reassembler.md rule R126). -/
def State.slotContent (s : State) (k : Nat) : List Byte :=
  (List.range' Config.gbtHdrLen (s.slotLen k)).map (s.slotByte k)

/-- `total` over slots 1..n (spec/43_reassembler.md rule R124). -/
def State.slotTotal (s : State) : Nat → Nat
  | 0 => 0
  | n + 1 => s.slotTotal n + s.slotLen (n + 1)

/-- The concatenated contents of slots 1..n (spec/43_reassembler.md rule R126). -/
def State.slotContents (s : State) : Nat → List Byte
  | 0 => []
  | n + 1 => s.slotContents n ++ s.slotContent (n + 1)

end Sys2Proof.Machine
end

