-- ==== Sys2Proof/Machine/Fcs.lean ====
section
/-! DEFINITION. The FCS-16 (spec/41_fcs.md): table generator, register update, FCS of a payload, validity, wire order,
and the bit-serial form the spec gives beside it. -/

namespace Sys2Proof.Machine

/-- One step of the reflected shift (rule R97). -/
def fcsShift (c : Half) : Half :=
  if c.getLsbD 0 then (c >>> 1) ^^^ Config.fcsPoly else c >>> 1

/-- `n` steps of the reflected shift. -/
def fcsShifts : Nat → Half → Half
  | 0, c => c
  | n + 1, c => fcsShifts n (fcsShift c)

/-- `FCSTAB[i]` (rule R97). -/
def fcsTab (i : Byte) : Half := fcsShifts 8 (i.setWidth 16)

/-- `FCS_STEP(f, b)` (rule R96). -/
def fcsStep (f : Half) (b : Byte) : Half :=
  (f >>> 8) ^^^ fcsTab ((f ^^^ b.setWidth 16).extractLsb' 0 8)

/-- The FCS register after the bytes `p`, from the register value `f`. -/
def fcsFrom (f : Half) : List Byte → Half
  | [] => f
  | b :: p => fcsFrom (fcsStep f b) p

/-- `FCS(p)` (rule R98). -/
def fcs (p : List Byte) : Half := fcsFrom Config.fcsSeed p

/-- `FCS_VALID(payload, stored)` (rule R99). -/
def fcsValid (p : List Byte) (stored : Half) : Bool := stored == swap16 (fcs p ^^^ 0xFFFF)

/-- The two FCS bytes a sender appends to `p`, low byte of the complement first (rule R100). -/
def fcsWire (p : List Byte) : List Byte :=
  [(fcs p ^^^ 0xFFFF).extractLsb' 0 8, (fcs p ^^^ 0xFFFF).extractLsb' 8 8]

/-- One bit of the bit-serial form (rule R101). -/
def fcsBit (f : Half) (t : Bool) : Half :=
  if Bool.xor (f.getLsbD 0) t then (f >>> 1) ^^^ Config.fcsPoly else f >>> 1

/-- The bit-serial form of one byte, least significant bit first (rule R101). -/
def fcsBits (f : Half) (b : Byte) : Half :=
  (List.range 8).foldl (fun f k => fcsBit f (b.getLsbD k)) f

end Sys2Proof.Machine
end

