-- ==== Sys2Proof/Machine/Reassembler.lean ====
section
/-! DEFINITION. The GBT reassembler (spec/43_reassembler.md): what one forwarded block does. -/

namespace Sys2Proof.Machine

/-- `slot[k] <- B; count <- k; signal EVT_BLOCK_STORED` (rules R120, R122; spec/20_memory.md rule R39). -/
def State.storeBlock (s : State) (k : Nat) (B : List Byte) : State :=
  State.signal { s with slot := s.slot.writeBytes (slotAddr k 0) B, count := k } .blockStored

/-- APDU.TOO_LARGE (rule R125). -/
def State.apduTooLarge (s : State) : State := (s.seqReset).signal .apduTooLarge

/-- APDU.EMIT (rule R126). -/
def State.emitApdu (s : State) : State :=
  State.signal
    { s with
      apdu := s.apdu.writeBytes 0 (s.slotContents s.count)
      apduLen := s.slotTotal s.count
      complete := true
      count := 0
      apduEvt := some (s.slotContents s.count) } .apduEmit

/-- LAST.CHECK, after the block `B` was stored (rule R124). -/
def State.lastCheck (s : State) (B : List Byte) : State :=
  if isLast B then
    if Config.apduCap < s.slotTotal s.count then s.apduTooLarge else s.emitApdu
  else s

/-- BLOCK.ACCEPT (rule R120). -/
def State.blockAccept (s : State) (B : List Byte) : State :=
  (s.storeBlock (s.count + 1) B).lastCheck B

/-- BLOCK.RESTART (rule R122). -/
def State.blockRestart (s : State) (B : List Byte) : State :=
  ((s.signal .seqRestart).storeBlock 1 B).lastCheck B

/-- BLOCK.MISMATCH (rule R121). -/
def State.blockMismatch (s : State) (B : List Byte) : State :=
  let t := (s.signal .seqMismatch).seqReset
  if blockNumber B = 1 then t.blockRestart B else t

/-- BLOCK.SLOT_FULL (rule R123). -/
def State.blockSlotFull (s : State) : State := (s.signal .slotFull).seqReset

/-- `BLOCK_IN(B)` (rule R127). -/
def State.blockIn (s : State) (B : List Byte) : State :=
  if malformed B then s.signal .blockMalformed
  else if (blockNumber B).toNat ≠ s.count + 1 then s.blockMismatch B
  else if Config.gbtMaxBlocks < s.count + 1 then s.blockSlotFull
  else s.blockAccept B

end Sys2Proof.Machine
end

