-- ==== Sys2Proof/Machine/Router.lean ====
section
/-! DEFINITION. The DLMS segment router (spec/42_router.md). It keeps no state between frames (spec/10_state.md rule R20). -/

namespace Sys2Proof.Machine

/-- Whether a valid payload carries a GBT block at the cursor (rule R109). -/
def carriesGbt (p : List Byte) : Bool := p[cursor p]? == some Config.gbtTag

/-- `ROUTE(p, valid)` (rule R115). -/
def State.route (s : State) (p : List Byte) (valid : Bool) : State :=
  if valid then
    if carriesGbt p then s.blockIn (p.drop (cursor p)) else s.signal .nonGbt
  else s.reasmFullReset

end Sys2Proof.Machine
end

