-- ==== Sys2Proof/Machine/Deframer.lean ====
section
/-! DEFINITION. The meanings of the sub-operations of `BYTE` (spec/40_deframer.md rules R78 to R86). The conditions
under which each is selected are the decoder's (rule R77). -/

namespace Sys2Proof.Machine

/-- FLAG.OPEN (rule R78). -/
def execFlagOpen (s : State) : Host.Outcome State Fault Refusal :=
  .next { s with fbuf := s.fbuf.write 0 Config.flag, pos := 1 }

/-- FLAG.HDR (rule R79). -/
def execFlagHdr (s : State) : Host.Outcome State Fault Refusal := .next (s.store Config.flag)

/-- The deframer's part of a close (rule R80): the buffer is reset and the frame event and its flag are given. -/
def State.closeFrame (s : State) : State :=
  State.signal
    { s with
      pos := 0
      frameEvt := some ⟨s.payload, fcsValid s.payload s.storedFcs⟩
      framePort := some ⟨s.payload.length, fcsValid s.payload s.storedFcs⟩ }
    (if fcsValid s.payload s.storedFcs then .frameOk else .frameBad)

/-- FLAG.CLOSE (rule R80): the close, then the router and the reassembler in the same step (spec/00_scope.md rule R10). -/
def execFlagClose (s : State) : Host.Outcome State Fault Refusal :=
  .next (s.closeFrame.route s.payload (fcsValid s.payload s.storedFcs))

/-- ESC.SET (rule R81). -/
def execEscSet (s : State) : Host.Outcome State Fault Refusal := .next { s with esc := true }

/-- ESC.HDR (rule R82). -/
def execEscHdr (s : State) : Host.Outcome State Fault Refusal := .next (s.store Config.escape)

/-- UNESC (rule R83). -/
def execUnesc (d : Byte) (s : State) : Host.Outcome State Fault Refusal :=
  .next (State.store { s with esc := false } (d ^^^ Config.escXor))

/-- DATA.STORE (rule R84). -/
def execDataStore (d : Byte) (s : State) : Host.Outcome State Fault Refusal := .next (s.store d)

/-- OVERFLOW (rule R86); the byte `d` is discarded. -/
def execOverflow (_d : Byte) (s : State) : Host.Outcome State Fault Refusal := .next s.overflowFrame

end Sys2Proof.Machine
end

