-- ==== Sys2Proof/Machine/Dispatch.lean ====
section
/-! DEFINITION. One arm per row of spec/opcode_table.json. -/

namespace Sys2Proof.Machine

def exec (i : Instr) (s : State) : Host.Outcome State Fault Refusal :=
  match i with
  | .idle d => Sys2Proof.Machine.execIdle d s
  | .flagOpen => Sys2Proof.Machine.execFlagOpen s
  | .flagHdr => Sys2Proof.Machine.execFlagHdr s
  | .flagClose => Sys2Proof.Machine.execFlagClose s
  | .escSet => Sys2Proof.Machine.execEscSet s
  | .escHdr => Sys2Proof.Machine.execEscHdr s
  | .unesc d => Sys2Proof.Machine.execUnesc d s
  | .dataStore d => Sys2Proof.Machine.execDataStore d s
  | .overflow d => Sys2Proof.Machine.execOverflow d s
  | .reasmReset d => Sys2Proof.Machine.execReasmReset d s
  | .reset d => Sys2Proof.Machine.execReset d s

end Sys2Proof.Machine
end

