-- ==== Sys2Proof/Machine/Step.lean ====
section
/-! DEFINITION. One step of the block (spec/44_control.md rule R136): the pins are taken and the operation words they
present are decoded and run, in order. -/

namespace Sys2Proof.Machine

/-- Runs operation words in order, each decoded in the deframer state it finds. -/
def runWords : List OpWord → State → Host.Outcome State Fault Refusal
  | [], s => .next s
  | w :: ws, s =>
    match exec (decode s.pos s.esc w) s with
    | .next t => runWords ws t
    | .fault r => .fault r
    | .refused r => .refused r

/-- One step (rule R136). -/
def step (s : State) : Host.Outcome State Fault Refusal := runWords (pinWords s.nextPins) s.beginStep

/-- `s` with the operation word `w` presented to the next step (log 2, log 10). A number of more than 10 bits is no
operation word, and nothing is presented for it. -/
def State.withFetchWord (s : State) (nbits w : Nat) : State :=
  if w % 2 ^ nbits < 2 ^ 10 then
    { s with inputs := wordPins (BitVec.ofNat 10 (w % 2 ^ nbits)) :: s.inputs }
  else s

end Sys2Proof.Machine
end

