-- ==== Sys2Proof/Machine/Ports.lean ====
section
/-! DEFINITION. The output ports: functions of the state at the end of the last step. Reading them changes nothing
(spec/20_memory.md rule R47). -/

namespace Sys2Proof.Machine

/-- The status outputs (spec/10_state.md rule R31). -/
structure Status where
  stPos : BitVec 11
  stEsc : Bool
  stCount : BitVec 6
  complete : Bool
  apduLen : BitVec 11
deriving DecidableEq, Repr

/-- The status outputs driven from the state (rule R31). -/
def State.status (s : State) : Status :=
  ⟨BitVec.ofNat 11 s.pos, s.esc, BitVec.ofNat 6 s.count, s.complete, BitVec.ofNat 11 s.apduLen⟩

/-- The output record of a step (spec/10_state.md rule R35). -/
structure OutputRecord where
  evt : Half
  frameEvt : Option FrameEvent
  apduEvt : Option (List Byte)
  status : Status
deriving DecidableEq, Repr

/-- The record of the step that led to this state. -/
def State.record (s : State) : OutputRecord := ⟨s.evt, s.frameEvt, s.apduEvt, s.status⟩

/-- The APDU read port (spec/44_control.md rule R143); beyond `apdu_len` the byte is unspecified (U3). -/
def State.apduRdData (s : State) (addr : BitVec 10) : Byte :=
  if addr.toNat < s.apduLen then s.apduByte addr.toNat
  else Config.freeByte .apduPort s.draws addr.toNat

/-- `frame_valid_evt` of the frame event port (spec/44_control.md rule R146). -/
def State.frameValidEvt (s : State) : Bool := s.frameEvt.isSome

/-- `frame_ok` (rule R146), valid until the next `BYTE` step (spec/70_reset_and_hazards.md rule R178) and
unspecified while the port is not valid (log 4). -/
def State.frameOk (s : State) : Bool :=
  match s.framePort with
  | some p => p.ok
  | none => Config.freeFrameOk s.draws

/-- `frame_len` (rule R146), valid as long as `frame_ok` is. -/
def State.frameLenOut (s : State) : BitVec 10 :=
  match s.framePort with
  | some p => BitVec.ofNat 10 p.len
  | none => Config.freeFrameLen s.draws

/-- How many payload bytes the port shows: none while it is not valid. -/
def State.shownLen (s : State) : Nat :=
  match s.framePort with
  | some p => p.len
  | none => 0

/-- `frame_rd_data` (rule R146); at and above `frame_len`, and while the port is not valid, the byte is unspecified
(U3). -/
def State.frameRdData (s : State) (addr : BitVec 10) : Byte :=
  if addr.toNat < s.shownLen then s.fbufByte (1 + addr.toNat)
  else Config.freeByte .framePort s.draws addr.toNat

/-- `in_ready`: always 1 at transaction level (spec/44_control.md rule R147). -/
def State.inReady (_s : State) : Bool := true

end Sys2Proof.Machine
end

