-- ==== Sys2Proof/Machine/Stream.lean ====
section
/-! DEFINITION. Streams of operations and what the host observes of them (spec/70_reset_and_hazards.md rule R184), and
the spec's builders of byte streams (spec/30_encoding.md rules R74, R75). These are the environment's, not the block's. -/

namespace Sys2Proof.Machine

/-- The pins of `BYTE d`. -/
def bytePins (d : Byte) : Pins := ⟨false, false, true, d⟩

/-- The pins of a run of bytes (rule R74). -/
def byteOps (bs : List Byte) : List Pins := bs.map bytePins

/-- The observation of a run (rule R184): one output record per operation, and the last state. Each operation is
presented to the step that takes it. -/
def observe : List Pins → State → Option (List OutputRecord × State)
  | [], s => some ([], s)
  | p :: ps, s =>
    match step { s with inputs := p :: s.inputs } with
    | .next t => (observe ps t).map (fun r => (t.record :: r.1, r.2))
    | .fault _ => none
    | .refused _ => none

/-- `STUFF` of one byte (rule R75): exactly flag and escape bytes are escaped. -/
def stuffByte (b : Byte) : List Byte :=
  if b = Config.flag ∨ b = Config.escape then [Config.escape, b ^^^ Config.escXor] else [b]

/-- `STUFF(xs)` (rule R75). -/
def stuff (xs : List Byte) : List Byte := xs.flatMap stuffByte

/-- A frame on the wire with header `h` and information `info` (rules R58, R75). -/
def wireFrame (h info : List Byte) : List Byte :=
  Config.flag :: (h ++ (stuff (info ++ fcsWire (h ++ info)) ++ [Config.flag]))

/-- `HDR(m)` (rule R75). -/
def hdr (m : Nat) : List Byte :=
  let six : List Byte := [0xA0, BitVec.ofNat 8 (m + 10), 0xCE, 0xFF, 0x03, 0x13]
  six ++ fcsWire six

/-- `GBT(bn, last, content)` (rule R75). -/
def gbt (bn : Nat) (last : Bool) (content : List Byte) : List Byte :=
  [0xE0, if last then 0x80 else 0x00, BitVec.ofNat 8 (bn / 256), BitVec.ofNat 8 bn, 0x00, 0x00,
    BitVec.ofNat 8 content.length] ++ content

/-- The blocks 1..k of a transfer, from number `n`, the last bit set only on the last (spec/43_reassembler.md rule R132). -/
def gbtBlocks : Nat → List (List Byte) → List (List Byte)
  | _, [] => []
  | n, [c] => [gbt n true c]
  | n, c :: c' :: cs => gbt n false c :: gbtBlocks (n + 1) (c' :: cs)

end Sys2Proof.Machine
end

