-- ==== Sys2Proof/Safety.lean ====
section
/-! DEFINITION. What the claims speak of: what an operation leaves unchanged, the invariants of spec/10_state.md, and
which states no rule of the block tells apart. -/

namespace Sys2Proof.Machine

/-! ### Frames: parts of the state that are the same in `s` and `t`, bytes compared through the model's reads -/

/-- Every byte of the frame buffer is the same. -/
def State.sameFbuf (s t : State) : Prop := ∀ i, t.fbufByte i = s.fbufByte i

/-- Every byte of the block list is the same. -/
def State.sameSlots (s t : State) : Prop := ∀ k i, t.slotByte k i = s.slotByte k i

/-- The APDU buffer and its length are the same. -/
def State.sameApdu (s t : State) : Prop := t.apduLen = s.apduLen ∧ ∀ i, t.apduByte i = s.apduByte i

/-- The deframer's state (rule R14) is the same. -/
def State.sameDeframer (s t : State) : Prop := t.pos = s.pos ∧ t.esc = s.esc ∧ s.sameFbuf t

/-- The reassembler's state (rule R14) is the same. -/
def State.sameReasm (s t : State) : Prop :=
  t.count = s.count ∧ t.complete = s.complete ∧ s.sameSlots t ∧ s.sameApdu t

/-- The frame event, the APDU event and what the frame port shows beside its bytes are the same. -/
def State.sameResults (s t : State) : Prop :=
  t.frameEvt = s.frameEvt ∧ t.apduEvt = s.apduEvt ∧ t.framePort = s.framePort

/-- The model's own fields are the same: the pins to come and the draws of the free values. -/
def State.sameModel (s t : State) : Prop := t.inputs = s.inputs ∧ t.epoch = s.epoch ∧ t.draws = s.draws

/-- Everything but the reassembler's state, the event vector and the APDU event is the same. -/
def State.sameFront (s t : State) : Prop :=
  s.sameDeframer t ∧ t.frameEvt = s.frameEvt ∧ t.framePort = s.framePort ∧ s.sameModel t

/-! ### Invariants -/

/-- The deframer's invariants (spec/10_state.md rules R18, R19): every held byte was written. -/
structure DeframerInv (s : State) : Prop where
  pos_le : s.pos ≤ 1024
  esc_pos : s.esc = true → 9 ≤ s.pos
  written : ∀ i, i < s.pos → (s.fbuf.read i).isSome = true

/-- Slot `k` holds a block that passed the admission check, has number `k` and is not a last block (rule R23). -/
def State.slotHolds (s : State) (k : Nat) : Prop :=
  ∃ B : List Byte, 7 + contentLen B ≤ B.length ∧ B.length ≤ 1024 ∧ (blockNumber B).toNat = k ∧ isLast B = false ∧
    ∀ i, i < B.length → s.slot.read (slotAddr k i) = B[i]?

/-- The reassembler's invariant between steps (spec/10_state.md rules R22, R23). -/
structure ReasmInv (s : State) : Prop where
  count_le : s.count ≤ 50
  holds : ∀ k, 1 ≤ k → k ≤ s.count → s.slotHolds k

/-- The three byte spaces are in canonical form, inside their sizes (spec/20_memory.md rule R37). -/
structure MemoryInv (s : State) : Prop where
  fbuf : Memory.wf 1024 s.fbuf
  slot : Memory.wf (50 * 1024) s.slot
  apdu : Memory.wf 1024 s.apdu

/-- The outputs' invariant (spec/10_state.md rules R26, R35, spec/44_control.md rules R145, R146): the APDU buffer
holds `apdu_len` written bytes, an APDU event is what the buffer holds, a frame event is what the frame port shows. -/
structure OutputInv (s : State) : Prop where
  apduLen_le : s.apduLen ≤ 1024
  apduWritten : ∀ i, i < s.apduLen → (s.apdu.read i).isSome = true
  apduEvt_eq : ∀ a, s.apduEvt = some a → a.length = s.apduLen ∧ ∀ i, i < a.length → s.apdu.read i = a[i]?
  framePort_len : ∀ p, s.framePort = some p → 6 ≤ p.len ∧ p.len ≤ 1021
  frameEvt_eq : ∀ f, s.frameEvt = some f → s.framePort = some ⟨f.payload.length, f.valid⟩ ∧
    ∀ i, i < f.payload.length → s.fbufByte (1 + i) = f.payload.getD i 0

/-! ### States that differ only in stale or unspecified bytes -/

/-- The states agree in every register, output and pending pin, and in every byte that is not stale (spec/10_state.md
rule R32): the frame buffer below `pos` but index 0, the stored blocks' own bytes, the APDU below `apdu_len`, the
payload the frame port shows. The free values' draws may differ. -/
structure SameVisible (s t : State) : Prop where
  pos : t.pos = s.pos
  esc : t.esc = s.esc
  count : t.count = s.count
  complete : t.complete = s.complete
  apduLen : t.apduLen = s.apduLen
  evt : t.evt = s.evt
  frameEvt : t.frameEvt = s.frameEvt
  apduEvt : t.apduEvt = s.apduEvt
  framePort : t.framePort = s.framePort
  inputs : t.inputs = s.inputs
  fbuf : ∀ i, 1 ≤ i → i < s.pos → t.fbufByte i = s.fbufByte i
  slot : ∀ k, 1 ≤ k → k ≤ s.count → ∀ i, i < 7 + s.slotLen k → t.slotByte k i = s.slotByte k i
  apdu : ∀ i, i < s.apduLen → t.apduByte i = s.apduByte i
  shown : ∀ i, i < s.shownLen → t.fbufByte (1 + i) = s.fbufByte (1 + i)

end Sys2Proof.Machine
end

