-- ==== Sys2Proof/Certificates/Slice0/Obligations.lean ====
section
/-! DEFINITION. The statements, in the order of OBLIGATIONS.json. Constants stand as the spec prints them, so that a
statement can be read beside its rule. Bytes of the three spaces are read through `fbufByte`, `slotByte` and
`apduByte`; `sameX` says that a part of the state is unchanged (Safety.lean). A rule marked 'derived' here is one the spec marks so: its own inference
from other rules. -/

open Sys2Proof Sys2Proof.Machine

/-! ### Encoding -/

/-- Words of every row, written out from the encodings of opcode_table.json, in deframer states of rule R57. -/
def Obligations.DecodedTableWords : Prop :=
  decode 0 false 0x0FF#10 = .idle 0xFF ∧
  decode 1 false 0x17E#10 = .flagOpen ∧
  decode 2 false 0x17E#10 = .flagHdr ∧ decode 8 false 0x17E#10 = .flagHdr ∧
  decode 9 false 0x17E#10 = .flagClose ∧ decode 1024 false 0x17E#10 = .flagClose ∧
  decode 9 false 0x17D#10 = .escSet ∧ decode 1024 true 0x17D#10 = .escSet ∧
  decode 8 false 0x17D#10 = .escHdr ∧
  decode 9 true 0x17E#10 = .unesc 0x7E ∧ decode 1024 true 0x15E#10 = .unesc 0x5E ∧
  decode 0 false 0x141#10 = .dataStore 0x41 ∧ decode 1023 false 0x141#10 = .dataStore 0x41 ∧
  decode 1024 false 0x141#10 = .overflow 0x41 ∧
  decode 0 false 0x255#10 = .reasmReset 0x55 ∧
  decode 1024 true 0x300#10 = .reset 0x00

/-- Decoding an encoded instruction gives it back, in every deframer state in which its row is the one taken. -/
def Obligations.DecodeOfEncode : Prop :=
  ∀ (i : Instr) (pos : Nat) (esc : Bool),
    i.wf = true → i.selected pos esc = true → decode pos esc (encode i) = i

/-- Every one of the 1024 words is legal and no bit of it is lost, in every deframer state (rules R54, R71). -/
def Obligations.EncodeOfDecode : Prop :=
  ∀ (pos : Nat) (esc : Bool) (w : OpWord), encode (decode pos esc w) = w

/-- The decoder takes a row whose pattern and whose condition on the deframer state hold (rule R57). -/
def Obligations.DecodedRowIsSelected : Prop :=
  ∀ (pos : Nat) (esc : Bool) (w : OpWord),
    (decode pos esc w).wf = true ∧ (decode pos esc w).selected pos esc = true

/-- Every number of at most 10 bits is a legal operation word (rules R54, R71); the data byte of the codes 00, 10 and 11
has no effect (rule R55). That a longer number is rejected by name is the model's choice (log 10). -/
def Obligations.OperationWordsLegalDataIgnored : Prop :=
  (∀ (pos : Nat) (esc : Bool) (w : Nat),
    (1024 ≤ w → decodeNat pos esc w = .error (.notAnOperationWord w)) ∧
    (w < 1024 → decodeNat pos esc w = .ok (decode pos esc (BitVec.ofNat 10 w)))) ∧
  ∀ (s : State) (d e : Byte),
    exec (.idle d) s = exec (.idle e) s ∧ exec (.reasmReset d) s = exec (.reasmReset e) s ∧
    exec (.reset d) s = exec (.reset e) s

/-! ### The step -/

/-- When the pins present one operation word, the step runs the decoded instruction on the state with the pins taken
and the last step's outputs replaced. An empty list of pins presents IDLE (log 2); `framePort` and `draws` are the
model's own (logs 1, 4). -/
def Obligations.StepRunsDecodedInstruction : Prop :=
  ∀ s : State,
    (∀ w : OpWord, pinWords s.nextPins = [w] →
      step s = exec (decode s.pos s.esc w)
        { s with
          inputs := s.inputs.tail, evt := 0, frameEvt := none, apduEvt := none, draws := s.draws + 1
          framePort := if s.nextPins.inValid = true ∧ s.nextPins.rst = false then none else s.framePort }) ∧
    (s.inputs = [] → pinWords s.nextPins = [0x000#10]) ∧
    (∀ (w : OpWord) (rest : List Pins), s.inputs = wordPins w :: rest → pinWords s.nextPins = [w])

/-- REASM_RESET and a byte in one step: the reset, then the byte, which finds `count = 0` (rule R142). -/
def Obligations.CombinedResetThenByte : Prop :=
  ∀ (s : State) (d : Byte) (rest : List Pins), s.inputs = ⟨false, true, true, d⟩ :: rest →
    ∃ b : State, exec (.reasmReset d) s.beginStep = .next b ∧ b.count = 0 ∧ b.complete = false ∧ b.evt = 0x0800 ∧
      b.pos = s.pos ∧ b.esc = s.esc ∧
      step s = exec (decode b.pos b.esc (opWord 1 d)) b ∧
      ∃ t, step s = .next t ∧ t.signalled .reasmResetDone = true

/-- `rst` overrides the other inputs and the byte is lost (rule R136): the step is RESET, and signals nothing. -/
def Obligations.RstOverridesOtherPins : Prop :=
  ∀ (s : State) (a v : Bool) (d : Byte) (rest : List Pins), s.inputs = ⟨true, a, v, d⟩ :: rest →
    ∃ t, step s = .next t ∧ t.pos = 0 ∧ t.esc = false ∧ t.count = 0 ∧ t.complete = false ∧ t.apduLen = 0 ∧
      t.evt = 0 ∧ t.frameEvt = none ∧ t.apduEvt = none ∧ t.inputs = rest

/-- Every state accepts every operation: no step stops (rule R149). -/
def Obligations.EveryStepCompletes : Prop :=
  (∀ s : State, ∃ t, step s = .next t) ∧ ∀ (i : Instr) (s : State), ∃ t, exec i s = .next t

/-- The registers right after reset (rules R34, R171); the three buffers list no byte (log 1). -/
def Obligations.ResetStateRegisters : Prop :=
  State.reset.pos = 0 ∧ State.reset.esc = false ∧ State.reset.count = 0 ∧ State.reset.complete = false ∧
  State.reset.apduLen = 0 ∧ State.reset.fbuf = [] ∧ State.reset.slot = [] ∧ State.reset.apdu = []

/-! ### Control operations -/

/-- IDLE writes nothing and its step gives an empty record (rule R137). -/
def Obligations.IdleKeepsEverything : Prop :=
  (∀ (d : Byte) (s : State), exec (.idle d) s = .next s) ∧
  ∀ (s : State) (w : OpWord), pinWords s.nextPins = [w] → opField w = 0 →
    ∃ t, step s = .next t ∧ t.evt = 0 ∧ t.frameEvt = none ∧ t.apduEvt = none ∧ t.status = s.status ∧
      s.sameDeframer t ∧ s.sameReasm t

/-- RESET clears the five registers and signals nothing (rule R138). Its frame: the outputs' events and the pins to
come. The three buffers become unspecified: every byte is a free value of a fresh draw (log 1). -/
def Obligations.ResetClearsRegisters : Prop :=
  ∀ (d : Byte) (s : State), ∃ t, exec (.reset d) s = .next t ∧
    t.pos = 0 ∧ t.esc = false ∧ t.count = 0 ∧ t.complete = false ∧ t.apduLen = 0 ∧
    t.evt = s.evt ∧ t.frameEvt = s.frameEvt ∧ t.apduEvt = s.apduEvt ∧ t.inputs = s.inputs ∧
    (∀ i, t.fbufByte i = Config.freeByte .fbuf s.draws i) ∧
    (∀ k i, t.slotByte k i = Config.freeByte .slot s.draws (slotAddr k i)) ∧
    (∀ i, t.apduByte i = Config.freeByte .apdu s.draws i)

/-- REASM_RESET (rule R139): `count` and `complete` cleared, the event signalled, all else unchanged. -/
def Obligations.ReasmResetResult : Prop :=
  ∀ (d : Byte) (s : State), ∃ t, exec (.reasmReset d) s = .next t ∧
    t.count = 0 ∧ t.complete = false ∧ t.evt = s.evt ||| 0x0800 ∧
    s.sameDeframer t ∧ s.sameSlots t ∧ s.sameApdu t ∧ s.sameResults t ∧ s.sameModel t

/-! ### Deframer operations -/

/-- FLAG.OPEN (rule R78). -/
def Obligations.FlagOpenResult : Prop :=
  ∀ s : State, s.esc = false → s.pos ≤ 1 → ∃ t, exec .flagOpen s = .next t ∧
    t.pos = 1 ∧ t.fbufByte 0 = 0x7E ∧ (∀ i, i ≠ 0 → t.fbufByte i = s.fbufByte i) ∧ t.esc = false ∧
    t.evt = s.evt ∧ s.sameReasm t ∧ s.sameResults t ∧ s.sameModel t

/-- FLAG.HDR (rule R79) and ESC.HDR (rule R82, derived): inside the header a flag or an escape byte is stored as it is. -/
def Obligations.HeaderBytesStored : Prop :=
  ∀ (s : State) (i : Instr) (v : Byte), s.esc = false → s.pos ≤ 8 →
    (i = .flagHdr ∧ v = 0x7E ∧ 2 ≤ s.pos) ∨ (i = .escHdr ∧ v = 0x7D) → ∃ t, exec i s = .next t ∧
    t.pos = s.pos + 1 ∧ t.fbufByte s.pos = v ∧ (∀ x, x ≠ s.pos → t.fbufByte x = s.fbufByte x) ∧ t.esc = false ∧
    t.evt = s.evt ∧ s.sameReasm t ∧ s.sameResults t ∧ s.sameModel t

/-- ESC.SET (rule R81), with `esc` 0 or 1 before and at every position. -/
def Obligations.EscSetResult : Prop :=
  ∀ s : State, 9 ≤ s.pos → ∃ t, exec .escSet s = .next t ∧
    t.esc = true ∧ t.pos = s.pos ∧ s.sameFbuf t ∧
    t.evt = s.evt ∧ s.sameReasm t ∧ s.sameResults t ∧ s.sameModel t

/-- UNESC (rule R83): the byte is stored XORed with 20, or, in a full buffer, the frame is lost. -/
def Obligations.UnescResult : Prop :=
  ∀ (s : State) (d : Byte), s.esc = true → ¬ (d = 0x7D ∧ 9 ≤ s.pos) → ∃ t, exec (.unesc d) s = .next t ∧
    t.esc = false ∧ s.sameReasm t ∧ s.sameResults t ∧ s.sameModel t ∧
    (s.pos < 1024 → t.pos = s.pos + 1 ∧ t.fbufByte s.pos = d ^^^ 0x20 ∧
      (∀ i, i ≠ s.pos → t.fbufByte i = s.fbufByte i) ∧ t.evt = s.evt) ∧
    (1024 ≤ s.pos → t.pos = 0 ∧ s.sameFbuf t ∧ t.evt = s.evt ||| 0x0004)

/-- DATA.STORE (rule R84): the byte is stored as it is, or, in a full buffer, the frame is lost. -/
def Obligations.DataStoreResult : Prop :=
  ∀ (s : State) (d : Byte), s.esc = false → d ≠ 0x7E → ¬ (d = 0x7D ∧ 9 ≤ s.pos) →
    ∃ t, exec (.dataStore d) s = .next t ∧
    t.esc = false ∧ s.sameReasm t ∧ s.sameResults t ∧ s.sameModel t ∧
    (s.pos < 1024 → t.pos = s.pos + 1 ∧ t.fbufByte s.pos = d ∧
      (∀ i, i ≠ s.pos → t.fbufByte i = s.fbufByte i) ∧ t.evt = s.evt) ∧
    (1024 ≤ s.pos → t.pos = 0 ∧ s.sameFbuf t ∧ t.evt = s.evt ||| 0x0004)

/-- OVERFLOW (rule R86): the frame in progress and the byte are lost, and nothing is given to the router. -/
def Obligations.OverflowResult : Prop :=
  ∀ (s : State) (d : Byte), 1024 ≤ s.pos → ∃ t, exec (.overflow d) s = .next t ∧
    t.pos = 0 ∧ t.esc = false ∧ t.evt = s.evt ||| 0x0004 ∧
    s.sameFbuf t ∧ s.sameReasm t ∧ s.sameResults t ∧ s.sameModel t

/-- FLAG.CLOSE (rule R80): what is read from the buffer, what the deframer writes and signals, and that the frame goes
to the router in the same step. `framePort` is the model's own: what the frame event port shows (log 4). -/
def Obligations.FlagCloseResult : Prop :=
  ∀ s : State, s.esc = false → 9 ≤ s.pos → ∃ (p : List Byte) (valid : Bool),
    p.length = s.pos - 3 ∧ (∀ i, i < p.length → p[i]? = some (s.fbufByte (1 + i))) ∧
    (valid = true ↔ u16be (s.fbufByte (s.pos - 2)) (s.fbufByte (s.pos - 1)) = swap16 (fcs p ^^^ 0xFFFF)) ∧
    exec .flagClose s = .next (State.route
      { s with
        pos := 0, frameEvt := some ⟨p, valid⟩, framePort := some ⟨p.length, valid⟩
        evt := s.evt ||| (if valid then 0x0001 else 0x0002) } p valid)

/-- The frame of FLAG.CLOSE: it stores no byte of the frame buffer and keeps `esc`, the pins and the draws; the block
list and the APDU change only if a block is stored or an APDU emitted. -/
def Obligations.FlagCloseFrame : Prop :=
  ∀ s : State, s.evt = 0 → s.esc = false → 9 ≤ s.pos → ∃ t, exec .flagClose s = .next t ∧
    t.pos = 0 ∧ t.esc = false ∧ s.sameFbuf t ∧ s.sameModel t ∧
    (t.signalled .blockStored = false → s.sameSlots t) ∧
    (t.signalled .apduEmit = false → s.sameApdu t ∧ t.apduEvt = s.apduEvt) ∧
    (t.signalled .apduEmit = false → t.signalled .reasmResetDone = false → t.complete = s.complete)

/-- At `pos >= 9` the bytes 7D 7D store nothing and keep `esc` set, and the byte after them is unescaped (rule R87, derived);
the bytes 7D 7E store 5E and the frame stays open (rule R88, derived). -/
def Obligations.EscapePairs : Prop :=
  ∀ s : State, 9 ≤ s.pos → s.pos < 1024 →
    (∃ rs t, observe (byteOps [0x7D, 0x7D]) s = some (rs, t) ∧ t.esc = true ∧ t.pos = s.pos ∧ s.sameFbuf t) ∧
    (∀ d : Byte, d ≠ 0x7D → ∃ rs t, observe (byteOps [0x7D, 0x7D, d]) s = some (rs, t) ∧ t.esc = false ∧
      t.pos = s.pos + 1 ∧ t.fbufByte s.pos = d ^^^ 0x20) ∧
    ∃ rs t, observe (byteOps [0x7D, 0x7E]) s = some (rs, t) ∧ t.esc = false ∧ t.pos = s.pos + 1 ∧
      t.fbufByte s.pos = 0x5E ∧ ∀ r ∈ rs, r.evt = 0 ∧ r.frameEvt = none

/-- A byte with no flag before it goes to `fbuf[0]`, which is no part of a payload; a flag after it opens a frame and
the stray byte is forgotten (rule R89, derived). -/
def Obligations.FrameWithoutOpeningFlag : Prop :=
  ∀ (s : State) (d : Byte), s.esc = false → s.pos = 0 → d ≠ 0x7E →
    (∃ rs t, observe (byteOps [d]) s = some (rs, t) ∧ t.pos = 1 ∧ t.esc = false ∧ t.fbufByte 0 = d) ∧
    ∃ rs t, observe (byteOps [d, 0x7E]) s = some (rs, t) ∧ t.pos = 1 ∧ t.esc = false ∧ t.fbufByte 0 = 0x7E ∧
      (∀ r ∈ rs, r.evt = 0)

/-- A frame event's payload has 6 to 1021 bytes, `pos - 3` of the closing step (rule R90, derived). -/
def Obligations.PayloadLengthBounds : Prop :=
  ∀ (s t : State) (f : FrameEvent), s.pos ≤ 1024 → step s = .next t → t.frameEvt = some f →
    f.payload.length = s.pos - 3 ∧ 6 ≤ f.payload.length ∧ f.payload.length ≤ 1021

/-- `HDLC_OVERFLOW` (rule R154): its cause, the registers after it, and that nothing else comes with it. -/
def Obligations.OverflowEventAlone : Prop :=
  ∀ s t : State, step s = .next t → t.signalled .hdlcOverflow = true →
    1024 ≤ s.pos ∧ t.pos = 0 ∧ t.esc = false ∧ t.frameEvt = none ∧ t.apduEvt = none ∧
    (s.nextPins.reasmReset = false → t.evt = 0x0004 ∧ s.sameReasm t)

/-! ### FCS -/

/-- The worked values of rules R97 and R99 and of vector L1-1. The polynomial is the spec's own 'from general knowledge'
(log 11). -/
def Obligations.FcsWorkedValues : Prop :=
  fcsTab 0x01 = 0x1189 ∧ fcsTab 0x80 = 0x8408 ∧ fcsTab 0x7E = 0x9AF9 ∧ fcsTab 0xFF = 0x0F78 ∧
  fcs [0xA0, 0x84, 0xCE, 0xFF, 0x03, 0x13] = 0x74ED ∧
  fcsWire [0xA0, 0x84, 0xCE, 0xFF, 0x03, 0x13] = [0x12, 0x8B] ∧
  fcsValid [0x01, 0x02, 0x03, 0x04, 0x05, 0x06] 0x0EB8 = true ∧
  fcsValid [0x01, 0x02, 0x03, 0x04, 0x05, 0x06] 0xB80E = false

/-- The table form equals the bit-serial form, for every register and byte (rule R101, from general knowledge). -/
def Obligations.FcsStepIsBitSerial : Prop := ∀ (f : Half) (b : Byte), fcsStep f b = fcsBits f b

/-- The residue after a payload and its wire FCS bytes is F0B8 (rule R102, derived). -/
def Obligations.FcsResidue : Prop := ∀ p : List Byte, fcs (p ++ fcsWire p) = 0xF0B8

/-- Exactly the sender's two bytes, low byte of the complement first, make a frame valid (rule R100, derived). -/
def Obligations.FcsWireOrder : Prop :=
  ∀ (p : List Byte) (b0 b1 : Byte),
    fcsValid p (u16be b0 b1) = true ↔
      b0 = (fcs p ^^^ 0xFFFF).extractLsb' 0 8 ∧ b1 = (fcs p ^^^ 0xFFFF).extractLsb' 8 8

/-! ### Router -/

/-- An invalid frame resets the reassembler, whatever its payload (rules R106, R153). -/
def Obligations.InvalidFrameResets : Prop :=
  ∀ s : State, s.esc = false → 9 ≤ s.pos →
    u16be (s.fbufByte (s.pos - 2)) (s.fbufByte (s.pos - 1)) ≠ swap16 (fcs s.payload ^^^ 0xFFFF) →
    ∃ t, exec .flagClose s = .next t ∧ t.count = 0 ∧ t.complete = false ∧ t.evt = s.evt ||| 0x0802 ∧
      t.frameEvt = some ⟨s.payload, false⟩ ∧ t.apduEvt = s.apduEvt ∧
      s.sameFbuf t ∧ s.sameSlots t ∧ s.sameApdu t

/-- A valid frame with no E0 at the cursor is dropped and the reassembler is unchanged (rule R110). -/
def Obligations.NonGbtFrameDropped : Prop :=
  ∀ s : State, s.esc = false → 9 ≤ s.pos →
    u16be (s.fbufByte (s.pos - 2)) (s.fbufByte (s.pos - 1)) = swap16 (fcs s.payload ^^^ 0xFFFF) →
    s.payload[if s.payload[8]? = some 0xE6 ∧ s.payload[9]? = some 0xE7 then 11 else 8]? ≠ some 0xE0 →
    ∃ t, exec .flagClose s = .next t ∧ t.evt = s.evt ||| 0x0009 ∧ s.sameReasm t ∧
      t.frameEvt = some ⟨s.payload, true⟩ ∧ t.apduEvt = s.apduEvt

/-- A valid frame with E0 at the cursor, which skips 8 bytes and an optional E6 E7 xx, gives the rest of the payload
to the reassembler as one block (rules R107 to R109). -/
def Obligations.GbtFrameForwarded : Prop :=
  ∀ (s : State) (c : Nat), s.esc = false → 9 ≤ s.pos →
    u16be (s.fbufByte (s.pos - 2)) (s.fbufByte (s.pos - 1)) = swap16 (fcs s.payload ^^^ 0xFFFF) →
    (c = if s.payload[8]? = some 0xE6 ∧ s.payload[9]? = some 0xE7 then 11 else 8) →
    s.payload[c]? = some 0xE0 →
    exec .flagClose s = .next (State.blockIn
      { s with
        pos := 0, frameEvt := some ⟨s.payload, true⟩, framePort := some ⟨s.payload.length, true⟩
        evt := s.evt ||| 0x0001 }
      (s.payload.drop c))

/-- Valid payloads of at most 8 bytes are dropped; 9 bytes with E0 last give a malformed block (rule R111). -/
def Obligations.ShortPayloads : Prop :=
  ∀ (s : State) (p : List Byte),
    (p.length ≤ 8 → s.route p true = s.signal .nonGbt) ∧
    (p.length = 9 → p[8]? = some 0xE0 → s.route p true = s.signal .blockMalformed)

/-- Frames that differ only in the 8 header bytes and the LLC control byte are routed alike (rule R112). -/
def Obligations.RouterIgnoresHeader : Prop :=
  ∀ (s : State) (p q : List Byte), p.length = q.length →
    (∀ i, 8 ≤ i → i ≠ 10 → p[i]? = q[i]?) →
    (p[10]? = q[10]? ∨ (p[8]? = some 0xE6 ∧ p[9]? = some 0xE7)) →
    s.route p true = s.route q true

/-! ### Reassembler: what one forwarded block does -/

/-- A block shorter than its header or its content is dropped and nothing else changes (rule R117). -/
def Obligations.MalformedBlockDropped : Prop :=
  ∀ (s : State) (B : List Byte), B.length < 7 ∨ B.length < 7 + (B.getD 6 0).toNat →
    (s.blockIn B).evt = s.evt ||| 0x0010 ∧ s.sameReasm (s.blockIn B) ∧ (s.blockIn B).apduEvt = s.apduEvt ∧
    s.sameFront (s.blockIn B)

/-- A block in sequence that is not the last is stored in the next slot (rule R120). -/
def Obligations.BlockInSequenceStored : Prop :=
  ∀ (s : State) (B : List Byte), 7 + (B.getD 6 0).toNat ≤ B.length →
    (u16be (B.getD 2 0) (B.getD 3 0)).toNat = s.count + 1 → s.count + 1 ≤ 50 → (B.getD 1 0).getLsbD 7 = false →
    ∃ t, s.blockIn B = t ∧ t.count = s.count + 1 ∧ t.evt = s.evt ||| 0x0020 ∧
      (∀ i, i < B.length → t.slotByte (s.count + 1) i = B.getD i 0) ∧
      (∀ a, a < slotAddr (s.count + 1) 0 ∨ slotAddr (s.count + 1) 0 + B.length ≤ a → t.slot.read a = s.slot.read a) ∧
      t.complete = s.complete ∧ s.sameApdu t ∧ t.apduEvt = s.apduEvt ∧ s.sameFront t

/-- A block out of sequence that is not block 1 resets the sequence and is dropped (rule R121). -/
def Obligations.MismatchedBlockDropped : Prop :=
  ∀ (s : State) (B : List Byte), 7 + (B.getD 6 0).toNat ≤ B.length →
    (u16be (B.getD 2 0) (B.getD 3 0)).toNat ≠ s.count + 1 → u16be (B.getD 2 0) (B.getD 3 0) ≠ 1 →
    ∃ t, s.blockIn B = t ∧ t.count = 0 ∧ t.evt = s.evt ||| 0x0040 ∧ t.complete = s.complete ∧
      s.sameSlots t ∧ s.sameApdu t ∧ t.apduEvt = s.apduEvt ∧ s.sameFront t

/-- Block 1 out of sequence starts a fresh sequence; as a last block it is emitted at once (rule R122). -/
def Obligations.BlockOneRestarts : Prop :=
  ∀ (s : State) (B : List Byte), 7 + (B.getD 6 0).toNat ≤ B.length →
    u16be (B.getD 2 0) (B.getD 3 0) = 1 → s.count ≠ 0 →
    ∃ t, s.blockIn B = t ∧ (∀ i, i < B.length → t.slotByte 1 i = B.getD i 0) ∧
      (∀ a, slotAddr 1 0 + B.length ≤ a → t.slot.read a = s.slot.read a) ∧ s.sameFront t ∧
      ((B.getD 1 0).getLsbD 7 = false →
        t.count = 1 ∧ t.evt = s.evt ||| 0x00E0 ∧ t.complete = s.complete ∧ s.sameApdu t ∧ t.apduEvt = s.apduEvt) ∧
      ((B.getD 1 0).getLsbD 7 = true →
        t.count = 0 ∧ t.evt = s.evt ||| 0x04E0 ∧ t.complete = true ∧ t.apduLen = (B.getD 6 0).toNat ∧
        t.apduEvt = some ((B.drop 7).take (B.getD 6 0).toNat) ∧
        (∀ i, i < (B.getD 6 0).toNat → t.apduByte i = B.getD (7 + i) 0) ∧
        ∀ i, (B.getD 6 0).toNat ≤ i → t.apduByte i = s.apduByte i)

/-- Block 51 in sequence finds no slot and is dropped: the transfer fails, and without a fresh block 1 nothing is emitted
afterwards (rule R123). -/
def Obligations.SlotFullResets : Prop :=
  ∀ (s : State) (B : List Byte), 7 + (B.getD 6 0).toNat ≤ B.length →
    s.count = 50 → (u16be (B.getD 2 0) (B.getD 3 0)).toNat = 51 →
    ∃ t, s.blockIn B = t ∧ t.count = 0 ∧ t.evt = s.evt ||| 0x0100 ∧ t.complete = s.complete ∧
      s.sameSlots t ∧ s.sameApdu t ∧ t.apduEvt = s.apduEvt ∧ s.sameFront t ∧
      ∀ Bs : List (List Byte), (∀ C ∈ Bs, u16be (C.getD 2 0) (C.getD 3 0) ≠ 1) →
        (Bs.foldl State.blockIn t).apduEvt = s.apduEvt ∧ (Bs.foldl State.blockIn t).complete = s.complete

/-- A last block that brings the total over 1024 is stored, emits nothing and resets the sequence (rule R125). -/
def Obligations.TooLargeEmitsNothing : Prop :=
  ∀ (s : State) (B : List Byte), 7 + (B.getD 6 0).toNat ≤ B.length →
    (u16be (B.getD 2 0) (B.getD 3 0)).toNat = s.count + 1 → s.count + 1 ≤ 50 → (B.getD 1 0).getLsbD 7 = true →
    1024 < s.slotTotal s.count + (B.getD 6 0).toNat →
    ∃ t, s.blockIn B = t ∧ t.count = 0 ∧ t.evt = s.evt ||| 0x0220 ∧ t.complete = s.complete ∧
      (∀ i, i < B.length → t.slotByte (s.count + 1) i = B.getD i 0) ∧
      (∀ a, a < slotAddr (s.count + 1) 0 ∨ slotAddr (s.count + 1) 0 + B.length ≤ a → t.slot.read a = s.slot.read a) ∧
      s.sameApdu t ∧ t.apduEvt = s.apduEvt ∧ s.sameFront t

/-- A last block with a total of at most 1024 emits the contents of the stored blocks and its own, in order, into the
APDU buffer from address 0, and leaves the higher addresses (rule R126); its slot holds the block (rule R120). -/
def Obligations.LastBlockEmits : Prop :=
  ∀ (s : State) (B a : List Byte), 7 + (B.getD 6 0).toNat ≤ B.length →
    (u16be (B.getD 2 0) (B.getD 3 0)).toNat = s.count + 1 → s.count + 1 ≤ 50 → (B.getD 1 0).getLsbD 7 = true →
    s.slotTotal s.count + (B.getD 6 0).toNat ≤ 1024 →
    a = s.slotContents s.count ++ (B.drop 7).take (B.getD 6 0).toNat →
    ∃ t, s.blockIn B = t ∧ t.apduEvt = some a ∧ t.apduLen = a.length ∧
      a.length = s.slotTotal s.count + (B.getD 6 0).toNat ∧
      (∀ i, i < a.length → t.apduByte i = a.getD i 0) ∧ (∀ i, a.length ≤ i → t.apduByte i = s.apduByte i) ∧
      t.complete = true ∧ t.count = 0 ∧ t.evt = s.evt ||| 0x0420 ∧
      (∀ i, i < B.length → t.slotByte (s.count + 1) i = B.getD i 0) ∧
      (∀ x, x < slotAddr (s.count + 1) 0 ∨ slotAddr (s.count + 1) 0 + B.length ≤ x → t.slot.read x = s.slot.read x) ∧
      s.sameFront t

/-- The streaming bit, the window size, the ack number and bytes after the content have no effect on the sequence, the
events, the APDU and what is kept of each stored block for a later emission (rule R128). -/
def Obligations.ReassemblerIgnoresFields : Prop :=
  ∀ (s : State) (B C : List Byte),
    7 + (B.getD 6 0).toNat ≤ B.length → 7 + (B.getD 6 0).toNat ≤ C.length →
    (B.getD 1 0).getLsbD 7 = (C.getD 1 0).getLsbD 7 →
    (∀ i, (i = 2 ∨ i = 3 ∨ 6 ≤ i) → i < 7 + (B.getD 6 0).toNat → B.getD i 0 = C.getD i 0) →
    (s.blockIn B).count = (s.blockIn C).count ∧ (s.blockIn B).complete = (s.blockIn C).complete ∧
    (s.blockIn B).evt = (s.blockIn C).evt ∧ (s.blockIn B).apduEvt = (s.blockIn C).apduEvt ∧
    (s.blockIn B).apduLen = (s.blockIn C).apduLen ∧ (s.blockIn B).apdu = (s.blockIn C).apdu ∧
    ∀ k, 1 ≤ k → k ≤ (s.blockIn B).count →
      (s.blockIn B).slotLen k = (s.blockIn C).slotLen k ∧ (s.blockIn B).slotContent k = (s.blockIn C).slotContent k

/-- Well-formed blocks 1..k, the last bit set only on k, k at most 50, at most 1024 content bytes: nothing is emitted
before the last block, and it emits the contents in order (rule R132, derived). -/
def Obligations.BlocksReassemble : Prop :=
  ∀ (s : State) (Bs : List (List Byte)) (B : List Byte), s.count = 0 → Bs.length + 1 ≤ 50 →
    (∀ i, ∀ C, (Bs ++ [B])[i]? = some C →
      malformed C = false ∧ (blockNumber C).toNat = i + 1 ∧ isLast C = decide (i = Bs.length)) →
    ((Bs ++ [B]).map contentLen).sum ≤ 1024 →
    (Bs.foldl State.blockIn s).apduEvt = s.apduEvt ∧ (Bs.foldl State.blockIn s).complete = s.complete ∧
    (Bs.foldl State.blockIn s).count = Bs.length ∧
    ((Bs ++ [B]).foldl State.blockIn s).apduEvt =
      some (((Bs ++ [B]).map (fun C => (C.drop 7).take (contentLen C))).flatten) ∧
    ((Bs ++ [B]).foldl State.blockIn s).complete = true ∧ ((Bs ++ [B]).foldl State.blockIn s).count = 0 ∧
    ((Bs ++ [B]).foldl State.blockIn s).apduLen = ((Bs ++ [B]).map contentLen).sum

/-- An admitted block with a number other than the expected one resets the sequence, and without a block 1 nothing is
emitted afterwards (rule R133, derived). -/
def Obligations.MismatchNeedsFreshBlockOne : Prop :=
  ∀ (s : State) (B : List Byte) (Bs : List (List Byte)), malformed B = false →
    (blockNumber B).toNat ≠ s.count + 1 → (∀ C ∈ B :: Bs, blockNumber C ≠ 1) →
    ((B :: Bs).foldl State.blockIn s).count = 0 ∧ ((B :: Bs).foldl State.blockIn s).apduEvt = s.apduEvt ∧
    ((B :: Bs).foldl State.blockIn s).complete = s.complete

/-! ### Ports -/

/-- After a step that emits an APDU, the APDU read port shows its bytes and `apdu_len` its length (rule R145), and every
later step but an emission and RESET leaves what the port shows (rule R178). -/
def Obligations.ApduPortShowsEmittedApdu : Prop :=
  (∀ (s t : State) (a : List Byte), step s = .next t → t.apduEvt = some a →
    a.length ≤ 1024 ∧ t.status.apduLen.toNat = a.length ∧ t.status.complete = true ∧
    ∀ addr : BitVec 10, addr.toNat < a.length → t.apduRdData addr = a.getD addr.toNat 0) ∧
  ∀ s t : State, step s = .next t → s.nextPins.rst = false → t.apduEvt = none →
    t.status.apduLen = s.status.apduLen ∧
    ∀ addr : BitVec 10, addr.toNat < s.apduLen → t.apduRdData addr = s.apduRdData addr

/-- In a step where FLAG.CLOSE runs, the frame port shows the payload (rule R146). Every later step that consumes no byte
and is no RESET keeps `frame_ok`, `frame_len` and the payload's bytes (rule R178; that RESET ends the port is log 4), while
the event itself is gone. -/
def Obligations.FramePortShowsPayload : Prop :=
  (∀ (s t : State) (f : FrameEvent), s.pos ≤ 1024 → step s = .next t → t.frameEvt = some f →
    t.frameValidEvt = true ∧ t.frameOk = f.valid ∧ t.frameLenOut.toNat = f.payload.length ∧
    t.framePort = some ⟨f.payload.length, f.valid⟩ ∧
    ∀ addr : BitVec 10, addr.toNat < f.payload.length → t.frameRdData addr = f.payload.getD addr.toNat 0) ∧
  ∀ (s t : State) (p : FramePort), step s = .next t → s.nextPins.rst = false → s.nextPins.inValid = false →
    s.framePort = some p →
    t.framePort = some p ∧ t.frameOk = s.frameOk ∧ t.frameLenOut = s.frameLenOut ∧ t.frameValidEvt = false ∧
    ∀ addr : BitVec 10, addr.toNat < p.len → t.frameRdData addr = s.frameRdData addr

/-- The status outputs are the registers, at their widths (rule R31). -/
def Obligations.StatusOutputsAreRegisters : Prop :=
  ∀ s : State, s.pos ≤ 1024 → s.count ≤ 50 → s.apduLen ≤ 1024 →
    s.status.stPos.toNat = s.pos ∧ s.status.stEsc = s.esc ∧ s.status.stCount.toNat = s.count ∧
    s.status.complete = s.complete ∧ s.status.apduLen.toNat = s.apduLen

/-! ### Whole-machine rules -/

/-- `complete` is set by an emission and only by one, and cleared only by a full reassembler reset or RESET (rule R24). -/
def Obligations.CompleteIsSticky : Prop :=
  ∀ s t : State, step s = .next t →
    (s.complete = false → t.complete = true → t.signalled .apduEmit = true) ∧
    (s.complete = true → t.complete = false → s.nextPins.rst = true ∨ t.signalled .reasmResetDone = true) ∧
    (∀ a, t.apduEvt = some a → t.complete = true) ∧ (s.nextPins.rst = true → t.complete = false)

/-- `apdu_len` changes only at RESET, to 0, and at an emission, to the APDU's length (rule R26). -/
def Obligations.ApduLenWriters : Prop :=
  ∀ s t : State, step s = .next t →
    (s.nextPins.rst = true → t.apduLen = 0) ∧
    (∀ a, t.apduEvt = some a → t.apduLen = a.length ∧ a.length ≤ 1024) ∧
    (s.nextPins.rst = false → t.apduEvt = none → t.apduLen = s.apduLen)

/-- `pos` advances by 1, stays or goes to 0; `count` advances by 1, stays, goes to 0 or restarts at 1 (rule R28, derived). -/
def Obligations.PosAndCountMoves : Prop :=
  ∀ s t : State, step s = .next t →
    (t.pos = s.pos ∨ t.pos = s.pos + 1 ∨ t.pos = 0) ∧
    (t.count = s.count ∨ t.count = s.count + 1 ∨ t.count = 0 ∨ (t.count = 1 ∧ t.signalled .blockStored = true))

/-- The state after reset meets every invariant. -/
def Obligations.ResetMeetsInvariants : Prop :=
  DeframerInv State.reset ∧ ReasmInv State.reset ∧ MemoryInv State.reset ∧ OutputInv State.reset

/-- Every step keeps the deframer's invariants (rules R18, R19, derived). -/
def Obligations.StepKeepsDeframerInv : Prop :=
  ∀ s t : State, DeframerInv s → step s = .next t → DeframerInv t

/-- Every step keeps the reassembler's invariant (rule R22; rule R23, derived). -/
def Obligations.StepKeepsReasmInv : Prop :=
  ∀ s t : State, DeframerInv s → ReasmInv s → step s = .next t → ReasmInv t

/-- Every step keeps the three spaces in canonical form and inside their sizes (rule R37; the form is the model's, logs 1
and 6; that a block fits its slot is rule R40, derived). -/
def Obligations.StepKeepsMemoryInv : Prop :=
  ∀ s t : State, DeframerInv s → MemoryInv s → step s = .next t → MemoryInv t

/-- Every step keeps the outputs' invariant (rules R26, R35, R145, R146; `framePort` is the model's own, log 4). -/
def Obligations.StepKeepsOutputInv : Prop :=
  ∀ s t : State, DeframerInv s → OutputInv s → step s = .next t → OutputInv t

/-- The only event vectors a step can produce (rule R164, derived). -/
def Obligations.OnlyTheseEventVectors : Prop :=
  ∀ s t : State, step s = .next t → t.evt = 0 ∨ t.evt ∈ eventTable ∨
    (s.nextPins.reasmReset = true ∧ s.nextPins.inValid = true ∧ ∃ v ∈ eventTable, t.evt = v ||| 0x0800)

/-- No rule reads a stale or unspecified byte: states that differ only there take steps with the same outputs to
states that differ only there (rules R32 and R172, derived). -/
def Obligations.StaleBytesInvisible : Prop :=
  ∀ s s' t : State, SameVisible s s' → step s = .next t →
    ∃ t', step s' = .next t' ∧ SameVisible t t' ∧ t'.record = t.record

/-- Stuffing round trip (rule R94, derived): stuffed bytes consumed at `pos >= 9` are stored as they were before stuffing. -/
def Obligations.StuffRoundTrip : Prop :=
  ∀ (s : State) (xs : List Byte), s.esc = false → 9 ≤ s.pos → s.pos + xs.length ≤ 1024 →
    ∃ rs t, observe (byteOps (stuff xs)) s = some (rs, t) ∧ t.pos = s.pos + xs.length ∧ t.esc = false ∧
      (∀ i, i < xs.length → t.fbufByte (s.pos + i) = xs.getD i 0) ∧
      (∀ i, i < s.pos → t.fbufByte i = s.fbufByte i) ∧ s.sameReasm t ∧ ∀ r ∈ rs, r.evt = 0

/-- A frame with a correct FCS that fits the buffer gives exactly one frame event, valid, with header and information
as payload, and `pos` returns to 0 (rule R95, derived). -/
def Obligations.FrameDelivered : Prop :=
  ∀ (s : State) (h info : List Byte), s.esc = false → s.pos ≤ 1 → h.length = 8 → h.head? ≠ some 0x7E →
    11 + info.length ≤ 1024 →
    ∃ rs t, observe (byteOps (wireFrame h info)) s = some (rs, t) ∧
      rs.filterMap OutputRecord.frameEvt = [⟨h ++ info, true⟩] ∧ t.frameEvt = some ⟨h ++ info, true⟩ ∧
      t.pos = 0 ∧ t.esc = false

/-- A transfer over the wire: the frames of blocks 1..k, each with its own header and an optional LLC prefix, emit
exactly one APDU, the concatenated contents (rule R109; rules R95 and R132, derived). -/
def Obligations.TransferOverTheWire : Prop :=
  ∀ (s : State) (fs : List (List Byte × List Byte)) (cs : List (List Byte)),
    s.esc = false → s.pos ≤ 1 → s.count = 0 → cs ≠ [] → cs.length ≤ 50 → fs.length = cs.length →
    (∀ f ∈ fs, f.1.length = 8 ∧ f.1.head? ≠ some 0x7E ∧ (f.2 = [] ∨ ∃ x, f.2 = [0xE6, 0xE7, x])) →
    (∀ c ∈ cs, c.length ≤ 255) → (cs.map List.length).sum ≤ 1024 →
    ∃ rs t, observe (byteOps ((List.zipWith (fun f B => wireFrame f.1 (f.2 ++ B)) fs (gbtBlocks 1 cs)).flatten)) s =
        some (rs, t) ∧
      rs.filterMap OutputRecord.apduEvt = [cs.flatten] ∧ t.complete = true ∧ t.apduLen = cs.flatten.length ∧
      t.pos = 0 ∧ t.count = 0 ∧ ∀ i, i < cs.flatten.length → t.apduByte i = cs.flatten.getD i 0
end

