-- ==== Sys2Proof/Laws/Memory.lean ====
section
/-! SUPPORT. The laws of a byte space: a read after a write, and that every write keeps the canonical form. -/

namespace Sys2Proof.Machine

@[simp] theorem Memory.read_nil (a : Nat) : Memory.read [] a = none := rfl

theorem Memory.read_cons (c : Host.Cell) (m : Memory) (a : Nat) :
    Memory.read (c :: m) a = if a = c.1 then some c.2 else Memory.read m a := rfl

/-- A read after a write: the byte written at its address, the old byte elsewhere. -/
theorem Memory.read_write (m : Memory) (a x : Nat) (b : Byte) :
    (m.write a b).read x = if x = a then some b else m.read x := by
  induction m with
  | nil => simp [Memory.write, Memory.read]
  | cons c m ih =>
    obtain ⟨c, v⟩ := c
    simp only [Memory.write]
    split
    · simp [Memory.read_cons]
    split
    · subst_vars; simp only [Memory.read_cons]; split <;> simp_all
    · rename_i h1 h2
      simp only [Memory.read_cons, ih]
      by_cases h : x = c
      · subst h; simp [Ne.symm h2]
      · simp [h]

/-- A read after consecutive writes. -/
theorem Memory.read_writeBytes (m : Memory) (a x : Nat) (bs : List Byte) :
    (m.writeBytes a bs).read x = if a ≤ x ∧ x < a + bs.length then bs[x - a]? else m.read x := by
  induction bs generalizing m a with
  | nil => simp [Memory.writeBytes]
  | cons b bs ih =>
    simp only [Memory.writeBytes, ih, Memory.read_write, List.length_cons]
    by_cases hx : x = a
    · subst hx; simp
    · by_cases h : a + 1 ≤ x ∧ x < a + 1 + bs.length
      · obtain ⟨d, rfl⟩ : ∃ d, x = a + 1 + d := ⟨x - (a + 1), by omega⟩
        rw [if_pos h, if_pos (by omega), show a + 1 + d - a = d + 1 by omega]
        simp
      · rw [if_neg h, if_neg hx, if_neg (by omega)]

/-- Bytes outside the written range keep their value. -/
theorem Memory.read_writeBytes_outside {m : Memory} {a x : Nat} {bs : List Byte} (h : x < a ∨ a + bs.length ≤ x) :
    (m.writeBytes a bs).read x = m.read x := by
  rw [Memory.read_writeBytes, if_neg (by omega)]

theorem Memory.mem_write {m : Memory} {a : Nat} {b : Byte} {c : Host.Cell} (h : c ∈ m.write a b) :
    c = (a, b) ∨ c ∈ m := by
  induction m with
  | nil => simpa [Memory.write] using h
  | cons d m ih =>
    obtain ⟨d, v⟩ := d
    simp only [Memory.write] at h
    split at h
    · simpa using h
    split at h
    · simp only [List.mem_cons] at h ⊢; tauto
    · simp only [List.mem_cons] at h ⊢; tauto

theorem Memory.wf_nil (size : Nat) : Memory.wf size [] := by simp [Memory.wf]

/-- The three spaces of the launch state list nothing. -/
theorem State.reset_memory_wf : Memory.wf 1024 State.reset.fbuf ∧ Memory.wf (50 * 1024) State.reset.slot ∧
    Memory.wf 1024 State.reset.apdu :=
  ⟨Memory.wf_nil _, Memory.wf_nil _, Memory.wf_nil _⟩

/-- A write inside the space keeps the canonical form. -/
theorem Memory.wf_write {size : Nat} {m : Memory} {a : Nat} {b : Byte} (h : Memory.wf size m) (ha : a < size) :
    Memory.wf size (m.write a b) := by
  refine ⟨?_, fun c hc => ?_⟩
  · obtain ⟨h, -⟩ := h
    induction m with
    | nil => simp [Memory.write]
    | cons d m ih =>
      obtain ⟨d, v⟩ := d
      simp only [List.pairwise_cons] at h
      simp only [Memory.write]
      split
      · rename_i lt
        simp only [List.pairwise_cons, List.mem_cons]
        refine ⟨?_, h⟩
        rintro c (rfl | hc)
        · exact lt
        · exact lt.trans (h.1 c hc)
      split
      · subst_vars; simpa only [List.pairwise_cons] using h
      · simp only [List.pairwise_cons]
        refine ⟨fun c hc => ?_, ih h.2⟩
        obtain rfl | hc := Memory.mem_write hc
        · show d < a; omega
        · exact h.1 c hc
  · obtain rfl | hc := Memory.mem_write hc
    · exact ha
    · exact h.2 c hc

/-- Consecutive writes inside the space keep the canonical form. -/
theorem Memory.wf_writeBytes {size : Nat} {m : Memory} {a : Nat} {bs : List Byte} (h : Memory.wf size m)
    (ha : a + bs.length ≤ size) : Memory.wf size (m.writeBytes a bs) := by
  induction bs generalizing m a with
  | nil => exact h
  | cons b bs ih =>
    simp only [List.length_cons] at ha
    exact ih (Memory.wf_write h (by omega)) (by omega)

/-- A slot's own bytes lie below every later slot. -/
theorem slotAddr_lt {j k i : Nat} (hj : 1 ≤ j) (h : j < k) (hi : i < 1024) : slotAddr j i < slotAddr k 0 := by
  simp only [slotAddr, Config.gbtSlotBytes]; omega

theorem slotAddr_eq (k i : Nat) : slotAddr k i = slotAddr k 0 + i := by simp [slotAddr]

end Sys2Proof.Machine
end

