-- ==== Sys2Proof/Laws/State.lean ====
section
/-! SUPPORT. What each shared operation does to each field of the state: one lemma per field, true by unfolding. -/

namespace Sys2Proof.Machine

@[simp] theorem State.signal_fbuf (s : State) (e : Event) : (s.signal e).fbuf = s.fbuf := rfl
@[simp] theorem State.signal_pos (s : State) (e : Event) : (s.signal e).pos = s.pos := rfl
@[simp] theorem State.signal_esc (s : State) (e : Event) : (s.signal e).esc = s.esc := rfl
@[simp] theorem State.signal_slot (s : State) (e : Event) : (s.signal e).slot = s.slot := rfl
@[simp] theorem State.signal_count (s : State) (e : Event) : (s.signal e).count = s.count := rfl
@[simp] theorem State.signal_complete (s : State) (e : Event) : (s.signal e).complete = s.complete := rfl
@[simp] theorem State.signal_apdu (s : State) (e : Event) : (s.signal e).apdu = s.apdu := rfl
@[simp] theorem State.signal_apduLen (s : State) (e : Event) : (s.signal e).apduLen = s.apduLen := rfl
@[simp] theorem State.signal_evt (s : State) (e : Event) : (s.signal e).evt = s.evt ||| e.mask := rfl
@[simp] theorem State.signal_frameEvt (s : State) (e : Event) : (s.signal e).frameEvt = s.frameEvt := rfl
@[simp] theorem State.signal_apduEvt (s : State) (e : Event) : (s.signal e).apduEvt = s.apduEvt := rfl
@[simp] theorem State.signal_framePort (s : State) (e : Event) : (s.signal e).framePort = s.framePort := rfl
@[simp] theorem State.signal_inputs (s : State) (e : Event) : (s.signal e).inputs = s.inputs := rfl
@[simp] theorem State.signal_epoch (s : State) (e : Event) : (s.signal e).epoch = s.epoch := rfl
@[simp] theorem State.signal_draws (s : State) (e : Event) : (s.signal e).draws = s.draws := rfl

@[simp] theorem State.overflowFrame_fbuf (s : State) : (s.overflowFrame).fbuf = s.fbuf := rfl
@[simp] theorem State.overflowFrame_pos (s : State) : (s.overflowFrame).pos = 0 := rfl
@[simp] theorem State.overflowFrame_esc (s : State) : (s.overflowFrame).esc = false := rfl
@[simp] theorem State.overflowFrame_slot (s : State) : (s.overflowFrame).slot = s.slot := rfl
@[simp] theorem State.overflowFrame_count (s : State) : (s.overflowFrame).count = s.count := rfl
@[simp] theorem State.overflowFrame_complete (s : State) : (s.overflowFrame).complete = s.complete := rfl
@[simp] theorem State.overflowFrame_apdu (s : State) : (s.overflowFrame).apdu = s.apdu := rfl
@[simp] theorem State.overflowFrame_apduLen (s : State) : (s.overflowFrame).apduLen = s.apduLen := rfl
@[simp] theorem State.overflowFrame_evt (s : State) : (s.overflowFrame).evt = s.evt ||| Event.hdlcOverflow.mask := rfl
@[simp] theorem State.overflowFrame_frameEvt (s : State) : (s.overflowFrame).frameEvt = s.frameEvt := rfl
@[simp] theorem State.overflowFrame_apduEvt (s : State) : (s.overflowFrame).apduEvt = s.apduEvt := rfl
@[simp] theorem State.overflowFrame_framePort (s : State) : (s.overflowFrame).framePort = s.framePort := rfl
@[simp] theorem State.overflowFrame_inputs (s : State) : (s.overflowFrame).inputs = s.inputs := rfl
@[simp] theorem State.overflowFrame_epoch (s : State) : (s.overflowFrame).epoch = s.epoch := rfl
@[simp] theorem State.overflowFrame_draws (s : State) : (s.overflowFrame).draws = s.draws := rfl

@[simp] theorem State.seqReset_fbuf (s : State) : (s.seqReset).fbuf = s.fbuf := rfl
@[simp] theorem State.seqReset_pos (s : State) : (s.seqReset).pos = s.pos := rfl
@[simp] theorem State.seqReset_esc (s : State) : (s.seqReset).esc = s.esc := rfl
@[simp] theorem State.seqReset_slot (s : State) : (s.seqReset).slot = s.slot := rfl
@[simp] theorem State.seqReset_count (s : State) : (s.seqReset).count = 0 := rfl
@[simp] theorem State.seqReset_complete (s : State) : (s.seqReset).complete = s.complete := rfl
@[simp] theorem State.seqReset_apdu (s : State) : (s.seqReset).apdu = s.apdu := rfl
@[simp] theorem State.seqReset_apduLen (s : State) : (s.seqReset).apduLen = s.apduLen := rfl
@[simp] theorem State.seqReset_evt (s : State) : (s.seqReset).evt = s.evt := rfl
@[simp] theorem State.seqReset_frameEvt (s : State) : (s.seqReset).frameEvt = s.frameEvt := rfl
@[simp] theorem State.seqReset_apduEvt (s : State) : (s.seqReset).apduEvt = s.apduEvt := rfl
@[simp] theorem State.seqReset_framePort (s : State) : (s.seqReset).framePort = s.framePort := rfl
@[simp] theorem State.seqReset_inputs (s : State) : (s.seqReset).inputs = s.inputs := rfl
@[simp] theorem State.seqReset_epoch (s : State) : (s.seqReset).epoch = s.epoch := rfl
@[simp] theorem State.seqReset_draws (s : State) : (s.seqReset).draws = s.draws := rfl

@[simp] theorem State.reasmFullReset_fbuf (s : State) : (s.reasmFullReset).fbuf = s.fbuf := rfl
@[simp] theorem State.reasmFullReset_pos (s : State) : (s.reasmFullReset).pos = s.pos := rfl
@[simp] theorem State.reasmFullReset_esc (s : State) : (s.reasmFullReset).esc = s.esc := rfl
@[simp] theorem State.reasmFullReset_slot (s : State) : (s.reasmFullReset).slot = s.slot := rfl
@[simp] theorem State.reasmFullReset_count (s : State) : (s.reasmFullReset).count = 0 := rfl
@[simp] theorem State.reasmFullReset_complete (s : State) : (s.reasmFullReset).complete = false := rfl
@[simp] theorem State.reasmFullReset_apdu (s : State) : (s.reasmFullReset).apdu = s.apdu := rfl
@[simp] theorem State.reasmFullReset_apduLen (s : State) : (s.reasmFullReset).apduLen = s.apduLen := rfl
@[simp] theorem State.reasmFullReset_evt (s : State) : (s.reasmFullReset).evt = s.evt ||| Event.reasmResetDone.mask := rfl
@[simp] theorem State.reasmFullReset_frameEvt (s : State) : (s.reasmFullReset).frameEvt = s.frameEvt := rfl
@[simp] theorem State.reasmFullReset_apduEvt (s : State) : (s.reasmFullReset).apduEvt = s.apduEvt := rfl
@[simp] theorem State.reasmFullReset_framePort (s : State) : (s.reasmFullReset).framePort = s.framePort := rfl
@[simp] theorem State.reasmFullReset_inputs (s : State) : (s.reasmFullReset).inputs = s.inputs := rfl
@[simp] theorem State.reasmFullReset_epoch (s : State) : (s.reasmFullReset).epoch = s.epoch := rfl
@[simp] theorem State.reasmFullReset_draws (s : State) : (s.reasmFullReset).draws = s.draws := rfl

@[simp] theorem State.resetBlock_fbuf (s : State) : (s.resetBlock).fbuf = [] := rfl
@[simp] theorem State.resetBlock_pos (s : State) : (s.resetBlock).pos = 0 := rfl
@[simp] theorem State.resetBlock_esc (s : State) : (s.resetBlock).esc = false := rfl
@[simp] theorem State.resetBlock_slot (s : State) : (s.resetBlock).slot = [] := rfl
@[simp] theorem State.resetBlock_count (s : State) : (s.resetBlock).count = 0 := rfl
@[simp] theorem State.resetBlock_complete (s : State) : (s.resetBlock).complete = false := rfl
@[simp] theorem State.resetBlock_apdu (s : State) : (s.resetBlock).apdu = [] := rfl
@[simp] theorem State.resetBlock_apduLen (s : State) : (s.resetBlock).apduLen = 0 := rfl
@[simp] theorem State.resetBlock_evt (s : State) : (s.resetBlock).evt = s.evt := rfl
@[simp] theorem State.resetBlock_frameEvt (s : State) : (s.resetBlock).frameEvt = s.frameEvt := rfl
@[simp] theorem State.resetBlock_apduEvt (s : State) : (s.resetBlock).apduEvt = s.apduEvt := rfl
@[simp] theorem State.resetBlock_framePort (s : State) : (s.resetBlock).framePort = none := rfl
@[simp] theorem State.resetBlock_inputs (s : State) : (s.resetBlock).inputs = s.inputs := rfl
@[simp] theorem State.resetBlock_epoch (s : State) : (s.resetBlock).epoch = s.draws := rfl
@[simp] theorem State.resetBlock_draws (s : State) : (s.resetBlock).draws = s.draws + 1 := rfl

@[simp] theorem State.beginStep_fbuf (s : State) : (s.beginStep).fbuf = s.fbuf := rfl
@[simp] theorem State.beginStep_pos (s : State) : (s.beginStep).pos = s.pos := rfl
@[simp] theorem State.beginStep_esc (s : State) : (s.beginStep).esc = s.esc := rfl
@[simp] theorem State.beginStep_slot (s : State) : (s.beginStep).slot = s.slot := rfl
@[simp] theorem State.beginStep_count (s : State) : (s.beginStep).count = s.count := rfl
@[simp] theorem State.beginStep_complete (s : State) : (s.beginStep).complete = s.complete := rfl
@[simp] theorem State.beginStep_apdu (s : State) : (s.beginStep).apdu = s.apdu := rfl
@[simp] theorem State.beginStep_apduLen (s : State) : (s.beginStep).apduLen = s.apduLen := rfl
@[simp] theorem State.beginStep_evt (s : State) : (s.beginStep).evt = 0 := rfl
@[simp] theorem State.beginStep_frameEvt (s : State) : (s.beginStep).frameEvt = none := rfl
@[simp] theorem State.beginStep_apduEvt (s : State) : (s.beginStep).apduEvt = none := rfl
@[simp] theorem State.beginStep_framePort (s : State) : (s.beginStep).framePort = (if consumesByte s.nextPins then none else s.framePort) := rfl
@[simp] theorem State.beginStep_inputs (s : State) : (s.beginStep).inputs = s.inputs.tail := rfl
@[simp] theorem State.beginStep_epoch (s : State) : (s.beginStep).epoch = s.epoch := rfl
@[simp] theorem State.beginStep_draws (s : State) : (s.beginStep).draws = s.draws + 1 := rfl

@[simp] theorem State.storeBlock_fbuf (s : State) (k : Nat) (B : List Byte) : (s.storeBlock k B).fbuf = s.fbuf := rfl
@[simp] theorem State.storeBlock_pos (s : State) (k : Nat) (B : List Byte) : (s.storeBlock k B).pos = s.pos := rfl
@[simp] theorem State.storeBlock_esc (s : State) (k : Nat) (B : List Byte) : (s.storeBlock k B).esc = s.esc := rfl
@[simp] theorem State.storeBlock_slot (s : State) (k : Nat) (B : List Byte) : (s.storeBlock k B).slot = s.slot.writeBytes (slotAddr k 0) B := rfl
@[simp] theorem State.storeBlock_count (s : State) (k : Nat) (B : List Byte) : (s.storeBlock k B).count = k := rfl
@[simp] theorem State.storeBlock_complete (s : State) (k : Nat) (B : List Byte) : (s.storeBlock k B).complete = s.complete := rfl
@[simp] theorem State.storeBlock_apdu (s : State) (k : Nat) (B : List Byte) : (s.storeBlock k B).apdu = s.apdu := rfl
@[simp] theorem State.storeBlock_apduLen (s : State) (k : Nat) (B : List Byte) : (s.storeBlock k B).apduLen = s.apduLen := rfl
@[simp] theorem State.storeBlock_evt (s : State) (k : Nat) (B : List Byte) : (s.storeBlock k B).evt = s.evt ||| Event.blockStored.mask := rfl
@[simp] theorem State.storeBlock_frameEvt (s : State) (k : Nat) (B : List Byte) : (s.storeBlock k B).frameEvt = s.frameEvt := rfl
@[simp] theorem State.storeBlock_apduEvt (s : State) (k : Nat) (B : List Byte) : (s.storeBlock k B).apduEvt = s.apduEvt := rfl
@[simp] theorem State.storeBlock_framePort (s : State) (k : Nat) (B : List Byte) : (s.storeBlock k B).framePort = s.framePort := rfl
@[simp] theorem State.storeBlock_inputs (s : State) (k : Nat) (B : List Byte) : (s.storeBlock k B).inputs = s.inputs := rfl
@[simp] theorem State.storeBlock_epoch (s : State) (k : Nat) (B : List Byte) : (s.storeBlock k B).epoch = s.epoch := rfl
@[simp] theorem State.storeBlock_draws (s : State) (k : Nat) (B : List Byte) : (s.storeBlock k B).draws = s.draws := rfl

@[simp] theorem State.apduTooLarge_fbuf (s : State) : (s.apduTooLarge).fbuf = s.fbuf := rfl
@[simp] theorem State.apduTooLarge_pos (s : State) : (s.apduTooLarge).pos = s.pos := rfl
@[simp] theorem State.apduTooLarge_esc (s : State) : (s.apduTooLarge).esc = s.esc := rfl
@[simp] theorem State.apduTooLarge_slot (s : State) : (s.apduTooLarge).slot = s.slot := rfl
@[simp] theorem State.apduTooLarge_count (s : State) : (s.apduTooLarge).count = 0 := rfl
@[simp] theorem State.apduTooLarge_complete (s : State) : (s.apduTooLarge).complete = s.complete := rfl
@[simp] theorem State.apduTooLarge_apdu (s : State) : (s.apduTooLarge).apdu = s.apdu := rfl
@[simp] theorem State.apduTooLarge_apduLen (s : State) : (s.apduTooLarge).apduLen = s.apduLen := rfl
@[simp] theorem State.apduTooLarge_evt (s : State) : (s.apduTooLarge).evt = s.evt ||| Event.apduTooLarge.mask := rfl
@[simp] theorem State.apduTooLarge_frameEvt (s : State) : (s.apduTooLarge).frameEvt = s.frameEvt := rfl
@[simp] theorem State.apduTooLarge_apduEvt (s : State) : (s.apduTooLarge).apduEvt = s.apduEvt := rfl
@[simp] theorem State.apduTooLarge_framePort (s : State) : (s.apduTooLarge).framePort = s.framePort := rfl
@[simp] theorem State.apduTooLarge_inputs (s : State) : (s.apduTooLarge).inputs = s.inputs := rfl
@[simp] theorem State.apduTooLarge_epoch (s : State) : (s.apduTooLarge).epoch = s.epoch := rfl
@[simp] theorem State.apduTooLarge_draws (s : State) : (s.apduTooLarge).draws = s.draws := rfl

@[simp] theorem State.emitApdu_fbuf (s : State) : (s.emitApdu).fbuf = s.fbuf := rfl
@[simp] theorem State.emitApdu_pos (s : State) : (s.emitApdu).pos = s.pos := rfl
@[simp] theorem State.emitApdu_esc (s : State) : (s.emitApdu).esc = s.esc := rfl
@[simp] theorem State.emitApdu_slot (s : State) : (s.emitApdu).slot = s.slot := rfl
@[simp] theorem State.emitApdu_count (s : State) : (s.emitApdu).count = 0 := rfl
@[simp] theorem State.emitApdu_complete (s : State) : (s.emitApdu).complete = true := rfl
@[simp] theorem State.emitApdu_apdu (s : State) : (s.emitApdu).apdu = s.apdu.writeBytes 0 (s.slotContents s.count) := rfl
@[simp] theorem State.emitApdu_apduLen (s : State) : (s.emitApdu).apduLen = s.slotTotal s.count := rfl
@[simp] theorem State.emitApdu_evt (s : State) : (s.emitApdu).evt = s.evt ||| Event.apduEmit.mask := rfl
@[simp] theorem State.emitApdu_frameEvt (s : State) : (s.emitApdu).frameEvt = s.frameEvt := rfl
@[simp] theorem State.emitApdu_apduEvt (s : State) : (s.emitApdu).apduEvt = some (s.slotContents s.count) := rfl
@[simp] theorem State.emitApdu_framePort (s : State) : (s.emitApdu).framePort = s.framePort := rfl
@[simp] theorem State.emitApdu_inputs (s : State) : (s.emitApdu).inputs = s.inputs := rfl
@[simp] theorem State.emitApdu_epoch (s : State) : (s.emitApdu).epoch = s.epoch := rfl
@[simp] theorem State.emitApdu_draws (s : State) : (s.emitApdu).draws = s.draws := rfl

@[simp] theorem State.closeFrame_fbuf (s : State) : (s.closeFrame).fbuf = s.fbuf := rfl
@[simp] theorem State.closeFrame_pos (s : State) : (s.closeFrame).pos = 0 := rfl
@[simp] theorem State.closeFrame_esc (s : State) : (s.closeFrame).esc = s.esc := rfl
@[simp] theorem State.closeFrame_slot (s : State) : (s.closeFrame).slot = s.slot := rfl
@[simp] theorem State.closeFrame_count (s : State) : (s.closeFrame).count = s.count := rfl
@[simp] theorem State.closeFrame_complete (s : State) : (s.closeFrame).complete = s.complete := rfl
@[simp] theorem State.closeFrame_apdu (s : State) : (s.closeFrame).apdu = s.apdu := rfl
@[simp] theorem State.closeFrame_apduLen (s : State) : (s.closeFrame).apduLen = s.apduLen := rfl
@[simp] theorem State.closeFrame_evt (s : State) : (s.closeFrame).evt = s.evt ||| (if fcsValid s.payload s.storedFcs then Event.frameOk else Event.frameBad).mask := rfl
@[simp] theorem State.closeFrame_frameEvt (s : State) : (s.closeFrame).frameEvt = some ⟨s.payload, fcsValid s.payload s.storedFcs⟩ := rfl
@[simp] theorem State.closeFrame_apduEvt (s : State) : (s.closeFrame).apduEvt = s.apduEvt := rfl
@[simp] theorem State.closeFrame_framePort (s : State) : (s.closeFrame).framePort =
    some ⟨s.payload.length, fcsValid s.payload s.storedFcs⟩ := rfl
@[simp] theorem State.closeFrame_inputs (s : State) : (s.closeFrame).inputs = s.inputs := rfl
@[simp] theorem State.closeFrame_epoch (s : State) : (s.closeFrame).epoch = s.epoch := rfl
@[simp] theorem State.closeFrame_draws (s : State) : (s.closeFrame).draws = s.draws := rfl

end Sys2Proof.Machine
end

