-- ==== Sys2Proof/Laws/Ops.lean ====
section
/-! SUPPORT. What each shared operation can do, said once: STORE, the router, BLOCK_IN and its parts. -/

namespace Sys2Proof.Machine

/-- STORE below the limit (rule R85). -/
theorem State.store_of_lt {s : State} {v : Byte} (h : s.pos < 1024) :
    s.store v = { s with fbuf := s.fbuf.write s.pos v, pos := s.pos + 1 } := by
  simp only [State.store, Config.hdlcBufMax]; rw [if_neg (by omega)]

/-- STORE at the limit (rule R86). -/
theorem State.store_of_ge {s : State} {v : Byte} (h : 1024 ≤ s.pos) : s.store v = s.overflowFrame := by
  simp only [State.store, Config.hdlcBufMax]; rw [if_pos h]

/-- Everything STORE can do. -/
theorem State.store_cases (s : State) (v : Byte) :
    (s.pos < 1024 ∧ s.store v = { s with fbuf := s.fbuf.write s.pos v, pos := s.pos + 1 }) ∨
    (1024 ≤ s.pos ∧ s.store v = s.overflowFrame) := by
  rcases Nat.lt_or_ge s.pos 1024 with h | h
  · exact .inl ⟨h, State.store_of_lt h⟩
  · exact .inr ⟨h, State.store_of_ge h⟩

/-- LAST.CHECK's three branches (rules R124 to R126). -/
theorem State.lastCheck_cases (s : State) (B : List Byte) :
    (isLast B = false ∧ s.lastCheck B = s) ∨
    (isLast B = true ∧ 1024 < s.slotTotal s.count ∧ s.lastCheck B = s.apduTooLarge) ∨
    (isLast B = true ∧ s.slotTotal s.count ≤ 1024 ∧ s.lastCheck B = s.emitApdu) := by
  unfold State.lastCheck
  cases h : isLast B
  · exact .inl ⟨rfl, rfl⟩
  · rcases Nat.lt_or_ge 1024 (s.slotTotal s.count) with h' | h'
    · exact .inr (.inl ⟨rfl, h', by simp [h']⟩)
    · exact .inr (.inr ⟨rfl, h', by simp [Nat.not_lt.2 h']⟩)

/-- `bn = 1` as a number. -/
theorem blockNumber_eq_one {B : List Byte} : blockNumber B = 1 ↔ (blockNumber B).toNat = 1 := by
  constructor
  · intro h; rw [h]; rfl
  · intro h; exact BitVec.eq_of_toNat_eq h

theorem malformed_eq_false {B : List Byte} : malformed B = false ↔ 7 + contentLen B ≤ B.length := by
  simp only [malformed, Config.gbtHdrLen, Bool.or_eq_false_iff, decide_eq_false_iff_not]; omega

theorem malformed_eq_true {B : List Byte} : malformed B = true ↔ B.length < 7 + contentLen B := by
  simp only [malformed, Config.gbtHdrLen, Bool.or_eq_true, decide_eq_true_iff]; omega

/-- Everything BLOCK_IN can do (rule R127). -/
theorem State.blockIn_cases (s : State) (B : List Byte) :
    (malformed B = true ∧ s.blockIn B = s.signal .blockMalformed) ∨
    (malformed B = false ∧ (blockNumber B).toNat ≠ s.count + 1 ∧ blockNumber B ≠ 1 ∧
      s.blockIn B = (s.signal .seqMismatch).seqReset) ∨
    (malformed B = false ∧ (blockNumber B).toNat ≠ s.count + 1 ∧ blockNumber B = 1 ∧
      s.blockIn B = ((s.signal .seqMismatch).seqReset).blockRestart B) ∨
    (malformed B = false ∧ (blockNumber B).toNat = s.count + 1 ∧ 50 ≤ s.count ∧ s.blockIn B = s.blockSlotFull) ∨
    (malformed B = false ∧ (blockNumber B).toNat = s.count + 1 ∧ s.count < 50 ∧ s.blockIn B = s.blockAccept B) := by
  unfold State.blockIn State.blockMismatch
  cases hm : malformed B
  · by_cases h1 : (blockNumber B).toNat = s.count + 1
    · by_cases h2 : s.count < 50
      · right; right; right; right
        refine ⟨rfl, h1, h2, ?_⟩
        rw [if_neg (by simp), if_neg (by simp [h1]), if_neg (by simp; omega)]
      · right; right; right; left
        refine ⟨rfl, h1, by omega, ?_⟩
        rw [if_neg (by simp), if_neg (by simp [h1]), if_pos (by simp; omega)]
    · by_cases h3 : blockNumber B = 1
      · right; right; left
        exact ⟨rfl, h1, h3, by rw [if_neg (by simp), if_pos h1]; exact if_pos h3⟩
      · right; left
        exact ⟨rfl, h1, h3, by rw [if_neg (by simp), if_pos h1]; exact if_neg h3⟩
  · left; simp

/-- With no block stored, a block other than block 1 stores nothing and emits nothing (rules R117, R121). -/
theorem State.blockIn_other {s : State} {B : List Byte} (h : s.count = 0) (hB : blockNumber B ≠ 1) :
    (s.blockIn B).count = 0 ∧ (s.blockIn B).apduEvt = s.apduEvt ∧ (s.blockIn B).complete = s.complete := by
  have hn : (blockNumber B).toNat ≠ 1 := fun h' => hB (blockNumber_eq_one.2 h')
  rcases s.blockIn_cases B with ⟨_, e⟩ | ⟨_, _, _, e⟩ | ⟨_, _, a, _⟩ | ⟨_, a, _⟩ | ⟨_, a, _⟩
  · rw [e]; exact ⟨h, rfl, rfl⟩
  · rw [e]; exact ⟨rfl, rfl, rfl⟩
  · exact absurd a hB
  · omega
  · omega

/-- The same for any sequence of such blocks. -/
theorem State.blocksIn_other {s : State} {Bs : List (List Byte)} (h : s.count = 0) (hB : ∀ B ∈ Bs, blockNumber B ≠ 1) :
    (Bs.foldl State.blockIn s).count = 0 ∧ (Bs.foldl State.blockIn s).apduEvt = s.apduEvt ∧
    (Bs.foldl State.blockIn s).complete = s.complete := by
  induction Bs generalizing s with
  | nil => exact ⟨h, rfl, rfl⟩
  | cons B Bs ih =>
    obtain ⟨h1, h2, h3⟩ := State.blockIn_other h (hB B (by simp))
    obtain ⟨h4, h5, h6⟩ := ih h1 fun C hC => hB C (by simp [hC])
    exact ⟨h4, h5.trans h2, h6.trans h3⟩

/-- Everything the router can do (rule R115). -/
theorem State.route_cases (s : State) (p : List Byte) (valid : Bool) :
    (valid = false ∧ s.route p valid = s.reasmFullReset) ∨
    (valid = true ∧ carriesGbt p = false ∧ s.route p valid = s.signal .nonGbt) ∨
    (valid = true ∧ carriesGbt p = true ∧ s.route p valid = s.blockIn (p.drop (cursor p))) := by
  unfold State.route
  cases valid <;> cases h : carriesGbt p <;> simp

/-- What the router and the reassembler never write: the deframer, the frame event and the model's own fields. -/
structure State.sameOutside (s t : State) : Prop where
  fbuf : t.fbuf = s.fbuf
  pos : t.pos = s.pos
  esc : t.esc = s.esc
  frameEvt : t.frameEvt = s.frameEvt
  framePort : t.framePort = s.framePort
  inputs : t.inputs = s.inputs
  epoch : t.epoch = s.epoch
  draws : t.draws = s.draws

theorem State.lastCheck_sameOutside (s : State) (B : List Byte) : s.sameOutside (s.lastCheck B) := by
  rcases s.lastCheck_cases B with ⟨_, h⟩ | ⟨_, _, h⟩ | ⟨_, _, h⟩ <;> rw [h] <;> constructor <;> rfl

theorem State.blockIn_sameOutside (s : State) (B : List Byte) : s.sameOutside (s.blockIn B) := by
  rcases s.blockIn_cases B with ⟨_, h⟩ | ⟨_, _, _, h⟩ | ⟨_, _, _, h⟩ | ⟨_, _, _, h⟩ | ⟨_, _, _, h⟩ <;> rw [h]
  · constructor <;> rfl
  · constructor <;> rfl
  · have := State.lastCheck_sameOutside ((((s.signal .seqMismatch).seqReset).signal .seqRestart).storeBlock 1 B) B
    exact ⟨this.fbuf, this.pos, this.esc, this.frameEvt, this.framePort, this.inputs, this.epoch, this.draws⟩
  · constructor <;> rfl
  · have := State.lastCheck_sameOutside (s.storeBlock (s.count + 1) B) B
    exact ⟨this.fbuf, this.pos, this.esc, this.frameEvt, this.framePort, this.inputs, this.epoch, this.draws⟩

theorem State.route_sameOutside (s : State) (p : List Byte) (valid : Bool) : s.sameOutside (s.route p valid) := by
  rcases s.route_cases p valid with ⟨_, h⟩ | ⟨_, _, h⟩ | ⟨_, _, h⟩ <;> rw [h]
  · constructor <;> rfl
  · constructor <;> rfl
  · exact s.blockIn_sameOutside _

/-- A slot's byte after a block was stored in slot `k`. -/
theorem State.storeBlock_slotByte (s : State) (k j i : Nat) (B : List Byte) :
    (s.storeBlock k B).slotByte j i =
      if slotAddr k 0 ≤ slotAddr j i ∧ slotAddr j i < slotAddr k 0 + B.length then
        B.getD (slotAddr j i - slotAddr k 0) 0 else s.slotByte j i := by
  simp only [State.slotByte, State.storeBlock_slot, State.storeBlock_epoch, Memory.read_writeBytes]
  split
  · rename_i h
    have : slotAddr j i - slotAddr k 0 < B.length := by omega
    simp [this]
  · rfl

theorem State.storeBlock_slotByte_own (s : State) (k i : Nat) (B : List Byte) (h : i < B.length) :
    (s.storeBlock k B).slotByte k i = B.getD i 0 := by
  rw [State.storeBlock_slotByte, if_pos (by rw [slotAddr_eq k i]; omega)]
  congr 1; rw [slotAddr_eq k i]; omega

theorem State.storeBlock_slotByte_earlier (s : State) {j k i : Nat} (B : List Byte) (hj : 1 ≤ j) (h : j < k)
    (hi : i < 1024) : (s.storeBlock k B).slotByte j i = s.slotByte j i := by
  have := slotAddr_lt hj h hi
  rw [State.storeBlock_slotByte, if_neg (by omega)]

/-- The length and content of a slot that just received an admitted block. -/
theorem State.storeBlock_slotLen_own (s : State) (k : Nat) (B : List Byte) (h : malformed B = false) :
    (s.storeBlock k B).slotLen k = contentLen B := by
  have := malformed_eq_false.1 h
  rw [State.slotLen, State.storeBlock_slotByte_own _ _ _ _ (by omega)]; rfl

theorem State.storeBlock_slotContent_own (s : State) (k : Nat) (B : List Byte) (h : malformed B = false) :
    (s.storeBlock k B).slotContent k = (B.drop 7).take (contentLen B) := by
  have hl := malformed_eq_false.1 h
  rw [State.slotContent, State.storeBlock_slotLen_own _ _ _ h]
  apply List.ext_getElem
  · simp; omega
  · intro n h1 h2
    simp only [Config.gbtHdrLen, List.length_map, List.length_range'] at h1
    rw [List.getElem_map, List.getElem_range', State.storeBlock_slotByte_own _ _ _ _ (by simp; omega)]
    simp [List.getD_eq_getElem?_getD, show 7 + n < B.length by omega]

theorem State.slotLen_lt (s : State) (k : Nat) : s.slotLen k < 256 := (s.slotByte k 6).isLt

theorem State.storeBlock_slotContent_earlier (s : State) {j k : Nat} (B : List Byte) (hj : 1 ≤ j) (h : j < k) :
    (s.storeBlock k B).slotContent j = s.slotContent j ∧ (s.storeBlock k B).slotLen j = s.slotLen j := by
  have hl : (s.storeBlock k B).slotLen j = s.slotLen j := by
    rw [State.slotLen, State.storeBlock_slotByte_earlier _ _ hj h (by omega)]; rfl
  refine ⟨?_, hl⟩
  rw [State.slotContent, State.slotContent, hl]
  apply List.map_congr_left
  intro i hi
  simp only [Config.gbtHdrLen, List.mem_range'_1] at hi
  have := s.slotLen_lt j
  exact State.storeBlock_slotByte_earlier _ _ hj h (by omega)

theorem State.storeBlock_slotContents_below (s : State) {n k : Nat} (B : List Byte) (h : n < k) :
    (s.storeBlock k B).slotContents n = s.slotContents n ∧ (s.storeBlock k B).slotTotal n = s.slotTotal n := by
  induction n with
  | zero => exact ⟨rfl, rfl⟩
  | succ n ih =>
    obtain ⟨h1, h2⟩ := ih (by omega)
    obtain ⟨h3, h4⟩ := s.storeBlock_slotContent_earlier (j := n + 1) B (by omega) h
    exact ⟨by simp only [State.slotContents, h1, h3], by simp only [State.slotTotal, h2, h4]⟩

/-- The concatenated contents after an admitted block was stored in the next slot. -/
theorem State.storeBlock_slotContents_next (s : State) (n : Nat) (B : List Byte) (h : malformed B = false) :
    (s.storeBlock (n + 1) B).slotContents (n + 1) = s.slotContents n ++ (B.drop 7).take (contentLen B) ∧
    (s.storeBlock (n + 1) B).slotTotal (n + 1) = s.slotTotal n + contentLen B := by
  obtain ⟨h1, h2⟩ := s.storeBlock_slotContents_below (n := n) (k := n + 1) B (by omega)
  exact ⟨by rw [State.slotContents, h1, State.storeBlock_slotContent_own _ _ _ h],
    by rw [State.slotTotal, h2, State.storeBlock_slotLen_own _ _ _ h]⟩

/-- The concatenation has the length `total`. -/
theorem State.slotContents_length (s : State) (n : Nat) : (s.slotContents n).length = s.slotTotal n := by
  induction n with
  | zero => rfl
  | succ n ih => simp [State.slotContents, State.slotTotal, ih, State.slotContent]

end Sys2Proof.Machine
end

