-- ==== Sys2Proof/Laws/Step.lean ====
section
/-! SUPPORT. What a step can do, said once: the pins' cases, and the cases of a consumed byte. -/

namespace Sys2Proof.Machine

@[simp] theorem opField_opWord (op : BitVec 2) (d : Byte) : opField (opWord op d) = op := by
  ext i hi
  simp only [opField, opWord, BitVec.getElem_extractLsb', BitVec.getLsbD_append]
  simp [hi]

@[simp] theorem dataField_opWord (op : BitVec 2) (d : Byte) : dataField (opWord op d) = d := by
  ext i hi
  simp only [dataField, opWord, BitVec.getElem_extractLsb', BitVec.getLsbD_append]
  simp [hi]

theorem opWord_fields (w : OpWord) : opWord (opField w) (dataField w) = w := by
  apply BitVec.eq_of_getLsbD_eq
  intro i hi
  show (opField w ++ dataField w).getLsbD i = w.getLsbD i
  simp only [opField, dataField, BitVec.getLsbD_append, BitVec.getLsbD_extractLsb']
  by_cases h : i < 8
  · simp [h]
  · have h2 : i - 8 < 2 := by omega
    have h3 : 8 + (i - 8) = i := by omega
    simp [h, h2, h3]

/-- The decoder on each operation code. -/
theorem decode_opWord (pos : Nat) (esc : Bool) (d : Byte) :
    decode pos esc (opWord 0 d) = .idle d ∧ decode pos esc (opWord 1 d) = decodeByte pos esc d ∧
    decode pos esc (opWord 2 d) = .reasmReset d ∧ decode pos esc (opWord 3 d) = .reset d := by
  simp [decode]

/-- Everything a consumed byte can do to the state that consumes it. -/
theorem exec_decodeByte_cases (s : State) (d : Byte) :
    (s.esc = false ∧ d = Config.flag ∧ s.pos ≤ 1 ∧
      exec (decodeByte s.pos s.esc d) s = .next { s with fbuf := s.fbuf.write 0 Config.flag, pos := 1 }) ∨
    (s.esc = false ∧ d = Config.flag ∧ 9 ≤ s.pos ∧
      exec (decodeByte s.pos s.esc d) s =
        .next (s.closeFrame.route s.payload (fcsValid s.payload s.storedFcs))) ∨
    (d = Config.escape ∧ 9 ≤ s.pos ∧ exec (decodeByte s.pos s.esc d) s = .next { s with esc := true }) ∨
    (∃ v, s.pos < 1024 ∧ exec (decodeByte s.pos s.esc d) s =
      .next { s with esc := false, fbuf := s.fbuf.write s.pos v, pos := s.pos + 1 }) ∨
    (1024 ≤ s.pos ∧ exec (decodeByte s.pos s.esc d) s = .next s.overflowFrame) := by
  have store : ∀ v, s.esc = false → exec (decodeByte s.pos s.esc d) s = .next (s.store v) →
      (∃ v, s.pos < 1024 ∧ exec (decodeByte s.pos s.esc d) s =
        .next { s with esc := false, fbuf := s.fbuf.write s.pos v, pos := s.pos + 1 }) ∨
      (1024 ≤ s.pos ∧ exec (decodeByte s.pos s.esc d) s = .next s.overflowFrame) := by
    intro v he h
    rcases s.store_cases v with ⟨h1, h2⟩ | ⟨h1, h2⟩
    · exact .inl ⟨v, h1, by rw [h, h2]; simp [he]⟩
    · exact .inr ⟨h1, by rw [h, h2]⟩
  cases he : s.esc
  · rw [he] at store
    by_cases hf : d = Config.flag
    · by_cases h1 : s.pos ≤ 1
      · exact .inl ⟨rfl, hf, h1, by simp [decodeByte, hf, h1, he, exec, execFlagOpen]⟩
      · by_cases h9 : s.pos < 9
        · exact .inr (.inr (.inr (store Config.flag rfl (by simp [decodeByte, hf, h1, h9, exec, execFlagHdr]))))
        · exact .inr (.inl ⟨rfl, hf, by omega, by simp [decodeByte, hf, h1, h9, exec, execFlagClose]⟩)
    · by_cases hx : d = Config.escape
      · by_cases h9 : 9 ≤ s.pos
        · exact .inr (.inr (.inl ⟨hx, h9, by simp [decodeByte, hx, h9, exec, execEscSet, Config.flag, Config.escape]⟩))
        · exact .inr (.inr (.inr (store Config.escape rfl
            (by simp [decodeByte, hx, h9, exec, execEscHdr, Config.flag, Config.escape]))))
      · by_cases h : 1024 ≤ s.pos
        · exact .inr (.inr (.inr (.inr ⟨h, by simp [decodeByte, hf, hx, h, exec, execOverflow]⟩)))
        · exact .inr (.inr (.inr (store d rfl (by simp [decodeByte, hf, hx, h, exec, execDataStore]))))
  · by_cases hx : d = Config.escape ∧ 9 ≤ s.pos
    · obtain ⟨hx, h9⟩ := hx
      exact .inr (.inr (.inl ⟨hx, h9, by simp [decodeByte, hx, h9, exec, execEscSet]⟩))
    · have h : exec (decodeByte s.pos true d) s = .next (State.store { s with esc := false } (d ^^^ Config.escXor)) := by
        have h2 : ¬ (d = Config.escape ∧ 1 + Config.hdlcHdrLen ≤ s.pos) := hx
        simp only [decodeByte, Bool.true_eq_false, and_false, if_false, if_neg h2, if_true]; rfl
      rcases State.store_cases { s with esc := false } (d ^^^ Config.escXor) with ⟨h1, h2⟩ | ⟨h1, h2⟩
      · exact .inr (.inr (.inr (.inl ⟨_, h1, by rw [h, h2]⟩)))
      · exact .inr (.inr (.inr (.inr ⟨h1, by rw [h, h2]; rfl⟩)))

/-- A consumed byte always gives a next state. -/
theorem exec_total (i : Instr) (s : State) : ∃ t, exec i s = .next t := by
  cases i <;> exact ⟨_, rfl⟩

/-- Running one word is one call of `exec`. -/
theorem runWords_one (w : OpWord) (s : State) : runWords [w] s = exec (decode s.pos s.esc w) s := by
  obtain ⟨t, h⟩ := exec_total (decode s.pos s.esc w) s
  simp [runWords, h]

/-- The step by the pins it takes (rule R136). -/
theorem step_eq (s : State) :
    step s =
      if s.nextPins.rst then .next s.beginStep.resetBlock
      else if s.nextPins.reasmReset && s.nextPins.inValid then
        exec (decodeByte s.pos s.esc s.nextPins.inByte) s.beginStep.reasmFullReset
      else if s.nextPins.reasmReset then .next s.beginStep.reasmFullReset
      else if s.nextPins.inValid then exec (decodeByte s.pos s.esc s.nextPins.inByte) s.beginStep
      else .next s.beginStep := by
  unfold step pinWords
  split
  · rw [runWords_one, (decode_opWord _ _ _).2.2.2]; rfl
  split
  · rw [runWords, (decode_opWord _ _ _).2.2.1]
    simp only [exec, execReasmReset]
    rw [runWords_one, (decode_opWord _ _ _).2.1]; rfl
  split
  · rw [runWords_one, (decode_opWord _ _ _).2.2.1]; rfl
  split
  · rw [runWords_one, (decode_opWord _ _ _).2.1]; rfl
  · rw [runWords_one, (decode_opWord _ _ _).1]; rfl

/-- Everything a step can do: the state after its resets, and a byte or none. -/
theorem step_cases {s t : State} (h : step s = .next t) :
    (s.nextPins.rst = true ∧ t = s.beginStep.resetBlock) ∨
    (s.nextPins.rst = false ∧ ∃ b, (b = s.beginStep ∧ s.nextPins.reasmReset = false ∨
        b = s.beginStep.reasmFullReset ∧ s.nextPins.reasmReset = true) ∧
      (t = b ∨ (s.nextPins.inValid = true ∧ exec (decodeByte b.pos b.esc s.nextPins.inByte) b = .next t))) := by
  rw [step_eq] at h
  cases hr : s.nextPins.rst <;> cases ha : s.nextPins.reasmReset <;> cases hv : s.nextPins.inValid <;>
    simp only [hr, ha, hv, Bool.and_true, Bool.and_false, if_true, if_false, Bool.false_eq_true] at h
  · right; exact ⟨rfl, _, .inl ⟨rfl, rfl⟩, .inl (by injection h with h; exact h.symm)⟩
  · right; exact ⟨rfl, _, .inl ⟨rfl, rfl⟩, .inr ⟨rfl, h⟩⟩
  · right; exact ⟨rfl, _, .inr ⟨rfl, rfl⟩, .inl (by injection h with h; exact h.symm)⟩
  · right; exact ⟨rfl, _, .inr ⟨rfl, rfl⟩, .inr ⟨rfl, h⟩⟩
  all_goals left; exact ⟨rfl, by injection h with h; exact h.symm⟩

end Sys2Proof.Machine
end

