-- ==== Sys2Proof/Laws/Events.lean ====
section
/-! SUPPORT. Which events each operation can signal: every operation only adds bits to the vector. -/

namespace Sys2Proof.Machine

/-- `v` is added to the event vector. -/
def State.adds (s t : State) (v : Half) : Prop := t.evt = s.evt ||| v

theorem State.adds_trans {s t u : State} {v w : Half} (h : s.adds t v) (h' : t.adds u w) : s.adds u (v ||| w) := by
  unfold State.adds at *; rw [h', h, BitVec.or_assoc]

theorem State.adds_signal (s : State) (e : Event) : s.adds (s.signal e) e.mask := rfl

/-- The content length of slot 1 alone never exceeds the APDU cap (rule R164's note on `0x02E1`). -/
theorem State.slotTotal_one (s : State) : s.slotTotal 1 ≤ 1024 := by
  have := s.slotLen_lt 1
  simp only [State.slotTotal, Nat.zero_add]; omega

/-- What a stored block's LAST.CHECK adds. -/
theorem State.lastCheck_adds (s : State) (B : List Byte) :
    s.adds (s.lastCheck B) 0 ∨ (1024 < s.slotTotal s.count ∧ s.adds (s.lastCheck B) Event.apduTooLarge.mask) ∨
    s.adds (s.lastCheck B) Event.apduEmit.mask := by
  rcases s.lastCheck_cases B with ⟨_, h⟩ | ⟨_, hl, h⟩ | ⟨_, _, h⟩ <;> rw [h]
  · left; simp [State.adds]
  · exact .inr (.inl ⟨hl, rfl⟩)
  · exact .inr (.inr rfl)

/-- What a forwarded block adds (rules R117 to R126). -/
theorem State.blockIn_adds (s : State) (B : List Byte) :
    ∃ v ∈ [0x0010#16, 0x0040, 0x0020, 0x00E0, 0x04E0, 0x0100, 0x0220, 0x0420], s.adds (s.blockIn B) v := by
  rcases s.blockIn_cases B with ⟨_, h⟩ | ⟨_, _, _, h⟩ | ⟨_, _, _, h⟩ | ⟨_, _, _, h⟩ | ⟨_, _, _, h⟩ <;> rw [h]
  · exact ⟨0x0010, by simp, rfl⟩
  · exact ⟨0x0040, by simp, rfl⟩
  · have h0 : s.adds ((((s.signal .seqMismatch).seqReset).signal .seqRestart).storeBlock 1 B) 0x00E0 := by
      simp [State.adds, Event.mask, Event.bit, BitVec.or_assoc]
    rcases State.lastCheck_adds ((((s.signal .seqMismatch).seqReset).signal .seqRestart).storeBlock 1 B) B with
      h1 | ⟨hl, _⟩ | h1
    · exact ⟨0x00E0, by simp, State.adds_trans h0 h1⟩
    · exact absurd hl (by rw [State.storeBlock_count]; exact Nat.not_lt.2 (State.slotTotal_one _))
    · exact ⟨0x04E0, by simp, State.adds_trans h0 h1⟩
  · exact ⟨0x0100, by simp, rfl⟩
  · have h0 : s.adds (s.storeBlock (s.count + 1) B) 0x0020 := rfl
    rcases State.lastCheck_adds (s.storeBlock (s.count + 1) B) B with h1 | ⟨_, h1⟩ | h1
    · exact ⟨0x0020, by simp, State.adds_trans h0 h1⟩
    · exact ⟨0x0220, by simp, State.adds_trans h0 h1⟩
    · exact ⟨0x0420, by simp, State.adds_trans h0 h1⟩

/-- What a routed frame adds (rule R115). -/
theorem State.route_adds (s : State) (p : List Byte) (valid : Bool) :
    (valid = false ∧ s.adds (s.route p valid) 0x0800) ∨
    (valid = true ∧ ∃ v ∈ [0x0008#16, 0x0010, 0x0040, 0x0020, 0x00E0, 0x04E0, 0x0100, 0x0220, 0x0420],
      s.adds (s.route p valid) v) := by
  rcases s.route_cases p valid with ⟨hv, h⟩ | ⟨hv, _, h⟩ | ⟨hv, _, h⟩ <;> rw [h]
  · exact .inl ⟨hv, rfl⟩
  · exact .inr ⟨hv, 0x0008, by simp, rfl⟩
  · obtain ⟨v, hm, ha⟩ := s.blockIn_adds (p.drop (cursor p))
    exact .inr ⟨hv, v, by simp at hm ⊢; tauto, ha⟩

/-- What a closed frame adds, over the event vector before the close. -/
theorem State.close_adds (s : State) :
    ∃ v ∈ [0x0802#16, 0x0009, 0x0011, 0x0041, 0x0021, 0x00E1, 0x04E1, 0x0101, 0x0221, 0x0421],
      s.adds (s.closeFrame.route s.payload (fcsValid s.payload s.storedFcs)) v := by
  have h0 : s.adds s.closeFrame (if fcsValid s.payload s.storedFcs then Event.frameOk else Event.frameBad).mask := rfl
  rcases s.closeFrame.route_adds s.payload (fcsValid s.payload s.storedFcs) with ⟨hv, h⟩ | ⟨hv, v, hm, h⟩
  · exact ⟨0x0802, by simp, by simpa [hv, Event.mask, Event.bit] using State.adds_trans h0 h⟩
  · refine ⟨0x0001 ||| v, ?_, by simpa [hv, Event.mask, Event.bit] using State.adds_trans h0 h⟩
    simp only [List.mem_cons, List.not_mem_nil, or_false] at hm
    rcases hm with rfl | rfl | rfl | rfl | rfl | rfl | rfl | rfl | rfl <;> simp

end Sys2Proof.Machine
end

