-- ==== Sys2Proof/Laws/Fcs.lean ====
section
/-! SUPPORT. The FCS shift is linear over XOR, and one register update is eight shifts. -/

namespace Sys2Proof.Machine

theorem fcsShift_xor (a b : Half) : fcsShift (a ^^^ b) = fcsShift a ^^^ fcsShift b := by
  simp only [fcsShift, BitVec.getLsbD_xor]
  cases a.getLsbD 0 <;> cases b.getLsbD 0 <;>
    simp [BitVec.ushiftRight_xor_distrib] <;> ac_nf <;> simp [← BitVec.xor_assoc]

theorem fcsShifts_xor (n : Nat) (a b : Half) : fcsShifts n (a ^^^ b) = fcsShifts n a ^^^ fcsShifts n b := by
  induction n generalizing a b with
  | zero => rfl
  | succ n ih => simp only [fcsShifts, fcsShift_xor, ih]

theorem fcsFrom_append (f : Half) (p q : List Byte) : fcsFrom f (p ++ q) = fcsFrom (fcsFrom f p) q := by
  induction p generalizing f with
  | nil => rfl
  | cons b p ih => exact ih _

/-- A 16-bit value is its two bytes. -/
theorem half_eq_bytes (f : Half) :
    f = (f.extractLsb' 8 8).setWidth 16 <<< 8 ^^^ (f.extractLsb' 0 8).setWidth 16 := by
  apply BitVec.eq_of_getLsbD_eq
  intro i hi
  simp only [BitVec.getLsbD_xor, BitVec.getLsbD_shiftLeft, BitVec.getLsbD_setWidth, BitVec.getLsbD_extractLsb']
  by_cases h : i < 8
  · simp [h]; omega
  · have h1 : i - 8 < 16 := by omega
    have h2 : i - 8 < 8 := by omega
    have h3 : 8 + (i - 8) = i := by omega
    simp [h, hi, h1, h2, h3]

/-- The logical shift by a byte keeps the high byte. -/
theorem half_ushiftRight_8 (f : Half) : f >>> 8 = (f.extractLsb' 8 8).setWidth 16 := by
  apply BitVec.eq_of_getLsbD_eq
  intro i hi
  simp only [BitVec.getLsbD_ushiftRight, BitVec.getLsbD_setWidth, BitVec.getLsbD_extractLsb']
  by_cases h : i < 8
  · simp [h, hi]
  · simp [h]; exact BitVec.getLsbD_of_ge _ _ (by omega)

/-- The high byte passes eight shifts unchanged. -/
theorem fcsShifts_high : ∀ h : Byte, fcsShifts 8 (h.setWidth 16 <<< 8) = h.setWidth 16 := by decide

/-- Eight shifts are a table lookup on the low byte (rules R96, R97). -/
theorem fcsShifts_8 (f : Half) : fcsShifts 8 f = (f >>> 8) ^^^ fcsTab (f.extractLsb' 0 8) := by
  conv_lhs => rw [half_eq_bytes f]
  rw [fcsShifts_xor, fcsShifts_high, half_ushiftRight_8]; rfl

/-- One register update is eight shifts of the register with the byte XORed in. -/
theorem fcsStep_eq_shifts (f : Half) (b : Byte) : fcsStep f b = fcsShifts 8 (f ^^^ b.setWidth 16) := by
  rw [fcsShifts_8, fcsStep]
  congr 1
  rw [half_ushiftRight_8, half_ushiftRight_8]
  congr 1
  apply BitVec.eq_of_getLsbD_eq
  intro i hi
  simp

end Sys2Proof.Machine
end

