-- ==== Sys2Proof/Laws/Frame.lean ====
section
/-! SUPPORT. How a frame follows from equal fields, what the closed frame's payload holds, and what the frame event port
shows. -/

namespace Sys2Proof.Machine

theorem State.sameFbuf_of_eq {s t : State} (h : t.fbuf = s.fbuf) (he : t.epoch = s.epoch) : s.sameFbuf t :=
  fun i => by simp only [State.fbufByte, h, he]

theorem State.sameSlots_of_eq {s t : State} (h : t.slot = s.slot) (he : t.epoch = s.epoch) : s.sameSlots t :=
  fun k i => by simp only [State.slotByte, h, he]

theorem State.sameApdu_of_eq {s t : State} (h : t.apdu = s.apdu) (hl : t.apduLen = s.apduLen)
    (he : t.epoch = s.epoch) : s.sameApdu t :=
  ⟨hl, fun i => by simp only [State.apduByte, h, he]⟩

/-- What the router and the reassembler never write is in particular the front of the block. -/
theorem State.sameOutside.sameFront {s t : State} (h : s.sameOutside t) : s.sameFront t :=
  ⟨⟨h.pos, h.esc, State.sameFbuf_of_eq h.fbuf h.epoch⟩, h.frameEvt, h.framePort, h.inputs, h.epoch, h.draws⟩

theorem State.payload_length (s : State) : s.payload.length = s.pos - 3 := by
  simp [State.payload, State.fbufSlice]

/-- Byte `i` of the payload is `fbuf[1+i]` (rule R62). -/
theorem State.payload_getElem? (s : State) {i : Nat} (h : i < s.pos - 3) :
    s.payload[i]? = some (s.fbufByte (1 + i)) := by
  simp [State.payload, State.fbufSlice, h]

/-- The frame event port while it is valid (rules R146, R178). -/
theorem State.framePort_valid {s : State} {p : FramePort} (h : s.framePort = some p) :
    s.frameOk = p.ok ∧ s.frameLenOut = BitVec.ofNat 10 p.len ∧ s.shownLen = p.len := by
  simp only [State.frameOk, State.frameLenOut, State.shownLen, h, and_self]

/-- A port that is not valid shows no byte. -/
theorem State.shownLen_of_none {s : State} (h : s.framePort = none) : s.shownLen = 0 := by
  simp only [State.shownLen, h]

/-- The data of the frame event port inside the shown payload. -/
theorem State.frameRdData_of_lt {s : State} {p : FramePort} {addr : BitVec 10} (h : s.framePort = some p)
    (ha : addr.toNat < p.len) : s.frameRdData addr = s.fbufByte (1 + addr.toNat) := by
  rw [State.frameRdData, (State.framePort_valid h).2.2, if_pos ha]

end Sys2Proof.Machine
end

