-- ==== Sys2Proof/Laws/PerInstr.lean ====
section
/-! SUPPORT. A family of laws, one per constructor: the operation code and the data byte an instruction's word carries. -/

namespace Sys2Proof.Laws.OpField

/-- The word of `i` has the operation code of its row (spec/30_encoding.md rule R55), and a row that fixes its data byte
(rule R57) has that byte. -/
def Statement (i : Instr) : Prop :=
  match i with
  | .idle d => opField (encode (.idle d)) = 0b00 ∧ dataField (encode (.idle d)) = d
  | .flagOpen => opField (encode .flagOpen) = 0b01 ∧ dataField (encode .flagOpen) = 0x7E
  | .flagHdr => opField (encode .flagHdr) = 0b01 ∧ dataField (encode .flagHdr) = 0x7E
  | .flagClose => opField (encode .flagClose) = 0b01 ∧ dataField (encode .flagClose) = 0x7E
  | .escSet => opField (encode .escSet) = 0b01 ∧ dataField (encode .escSet) = 0x7D
  | .escHdr => opField (encode .escHdr) = 0b01 ∧ dataField (encode .escHdr) = 0x7D
  | .unesc d => opField (encode (.unesc d)) = 0b01 ∧ dataField (encode (.unesc d)) = d
  | .dataStore d => opField (encode (.dataStore d)) = 0b01 ∧ dataField (encode (.dataStore d)) = d
  | .overflow d => opField (encode (.overflow d)) = 0b01 ∧ dataField (encode (.overflow d)) = d
  | .reasmReset d => opField (encode (.reasmReset d)) = 0b10 ∧ dataField (encode (.reasmReset d)) = d
  | .reset d => opField (encode (.reset d)) = 0b11 ∧ dataField (encode (.reset d)) = d

theorem idle (d : Byte) : Statement (.idle d) := by revert d; unfold Statement; decide
theorem flagOpen : Statement .flagOpen := by unfold Statement; decide
theorem flagHdr : Statement .flagHdr := by unfold Statement; decide
theorem flagClose : Statement .flagClose := by unfold Statement; decide
theorem escSet : Statement .escSet := by unfold Statement; decide
theorem escHdr : Statement .escHdr := by unfold Statement; decide
theorem unesc (d : Byte) : Statement (.unesc d) := by revert d; unfold Statement; decide
theorem dataStore (d : Byte) : Statement (.dataStore d) := by revert d; unfold Statement; decide
theorem overflow (d : Byte) : Statement (.overflow d) := by revert d; unfold Statement; decide
theorem reasmReset (d : Byte) : Statement (.reasmReset d) := by revert d; unfold Statement; decide
theorem reset (d : Byte) : Statement (.reset d) := by revert d; unfold Statement; decide

end Sys2Proof.Laws.OpField
end

