-- ==== Sys2Proof/Laws/Stream.lean ====
section
/-! SUPPORT. One byte of a stream, and a stream in two parts. -/

namespace Sys2Proof.Machine

/-- The step that consumes a presented byte. -/
theorem step_bytePins (s : State) (d : Byte) :
    step { s with inputs := bytePins d :: s.inputs } =
      exec (decodeByte s.pos s.esc d)
        { s with evt := 0, frameEvt := none, apduEvt := none, framePort := none, draws := s.draws + 1 } := by
  rw [step_eq]; simp [State.nextPins, bytePins]; rfl

/-- The observation of a stream by its first byte. -/
theorem observe_cons {s t : State} {d : Byte} {ds : List Byte}
    (h : exec (decodeByte s.pos s.esc d)
      { s with evt := 0, frameEvt := none, apduEvt := none, framePort := none, draws := s.draws + 1 } = .next t) :
    observe (byteOps (d :: ds)) s = (observe (byteOps ds) t).map (fun r => (t.record :: r.1, r.2)) := by
  show observe (bytePins d :: byteOps ds) s = _
  rw [observe, step_bytePins, h]

/-- The observation of a stream in two parts. -/
theorem observe_append {s t : State} {ps qs : List Pins} {rs : List OutputRecord}
    (h : observe ps s = some (rs, t)) :
    observe (ps ++ qs) s = (observe qs t).map (fun r => (rs ++ r.1, r.2)) := by
  induction ps generalizing s rs with
  | nil => simp only [observe, Option.some.injEq, Prod.mk.injEq] at h; obtain ⟨rfl, rfl⟩ := h; simp
  | cons p ps ih =>
    simp only [List.cons_append, observe] at h ⊢
    cases hu : step { s with inputs := p :: s.inputs } with
    | next u =>
      simp only [hu] at h ⊢
      cases ho : observe ps u with
      | none => simp [ho] at h
      | some r =>
        obtain ⟨rs', t'⟩ := r
        simp only [ho, Option.map_some, Option.some.injEq, Prod.mk.injEq] at h
        obtain ⟨rfl, rfl⟩ := h
        rw [ih ho]
        cases observe qs t' <;> simp
    | fault r => simp [hu] at h
    | refused r => simp [hu] at h

end Sys2Proof.Machine
end

