-- ==== Sys2Proof/Tests/Slice0.lean ====
section
/-! SUPPORT. Tests of single steps, their expected values from spec/ (the vector's name stands at each), and for every
obligation with hypotheses a state and operands that meet them together. -/

namespace Sys2Proof.Tests

open Sys2Proof Sys2Proof.Machine

/-! ### Helpers -/

/-- The state a step leads to; the state itself where the step stops. -/
def after (s : State) : State :=
  match step s with
  | .next t => t
  | .fault _ => s
  | .refused _ => s

/-- The state after one presented operation. -/
def afterOp (p : Pins) (s : State) : State := after { s with inputs := [p] }

/-- The launch state with two registers of the deframer set. -/
def deframerAt (pos : Nat) (esc : Bool) : State := { State.reset with pos := pos, esc := esc }

/-- An open frame whose bytes after the flag are `bs`. -/
def openFrame (bs : List Byte) : State :=
  { State.reset with pos := bs.length + 1, fbuf := Memory.writeBytes [] 0 (0x7E :: bs) }

/-- An open frame with payload `p` and its right FCS. -/
def goodFrame (p : List Byte) : State := openFrame (p ++ fcsWire p)

/-- The header `H` of 95_test_vectors.md section 2.3. -/
def headerH : List Byte := [0xA0, 0x84, 0xCE, 0xFF, 0x03, 0x13, 0x12, 0x8B]

/-- A state with `count` stored blocks, of whose slots only the listed bytes are known. -/
def storedAt (count : Nat) (cells : Memory) : State := { State.reset with count := count, slot := cells }

/-- The content lengths of slots 1 to 4, each FF: 1020 bytes in all. -/
def fourLengths : Memory := [(6, 0xFF), (1030, 0xFF), (2054, 0xFF), (3078, 0xFF)]

/-! ### Well-formedness: each check refuses a term (30 R57) -/

theorem test_wf_dataStore_flag : (Instr.dataStore 0x7E).wf = false := by decide
theorem test_wf_dataStore_escape : (Instr.dataStore 0x7D).wf = false := by decide
theorem test_wf_overflow_flag : (Instr.overflow 0x7E).wf = false := by decide
theorem test_wf_overflow_escape : (Instr.overflow 0x7D).wf = false := by decide
theorem test_wf_accepts : (Instr.dataStore 0x41).wf = true ∧ (Instr.unesc 0x7E).wf = true := by decide

/-! ### Decoding: words written out bit by bit from the table's encodings -/

theorem test_decode_idle : decode 9 true 0b0001111110#10 = .idle 0x7E := by decide
theorem test_decode_flagOpen : decode 1 false 0b0101111110#10 = .flagOpen := by decide
theorem test_decode_flagHdr : decode 2 false 0b0101111110#10 = .flagHdr := by decide
theorem test_decode_flagClose : decode 9 false 0b0101111110#10 = .flagClose := by decide
theorem test_decode_escSet : decode 9 true 0b0101111101#10 = .escSet := by decide
theorem test_decode_escHdr : decode 8 false 0b0101111101#10 = .escHdr := by decide
theorem test_decode_unesc : decode 9 true 0b0101111110#10 = .unesc 0x7E := by decide
theorem test_decode_dataStore : decode 1023 false 0b0101000001#10 = .dataStore 0x41 := by decide
theorem test_decode_overflow : decode 1024 false 0b0101000001#10 = .overflow 0x41 := by decide
theorem test_decode_reasmReset : decode 9 false 0b1000000000#10 = .reasmReset 0 := by decide
theorem test_decode_reset : decode 9 true 0b1100000000#10 = .reset 0 := by decide
theorem test_encode_bits : encode (.unesc 0x5E) = 0b0101011110#10 ∧ encode .flagClose = 0b0101111110#10 ∧
    encode (.reset 0) = 0b1100000000#10 := by decide
theorem test_decodeTableWord : decodeTableWord 16 0x17E = some .flagOpen ∧ decodeTableWord 16 0x300 = some (.reset 0) ∧
    decodeTableWord 16 0x400 = none := by decide
/-- A presented word is the one the next step runs. -/
theorem test_withFetchWord : (after (State.reset.withFetchWord 16 0x17E)).pos = 1 ∧
    (after (State.reset.withFetchWord 16 0x200)).evt = 0x0800 := by decide

/-! ### One step (95_test_vectors.md sections 2.2 and 2.5) -/

/-- D-1 and D-2. -/
theorem test_flagOpen : (afterOp (bytePins 0x7E) (deframerAt 0 false)).pos = 1 ∧
    (afterOp (bytePins 0x7E) (deframerAt 1 false)).fbufByte 0 = 0x7E := by decide
/-- D-4. -/
theorem test_flagHdr : (afterOp (bytePins 0x7E) (deframerAt 8 false)).pos = 9 ∧
    (afterOp (bytePins 0x7E) (deframerAt 8 false)).fbufByte 8 = 0x7E := by decide
/-- D-6. -/
theorem test_escHdr : (afterOp (bytePins 0x7D) (deframerAt 8 false)).pos = 9 ∧
    (afterOp (bytePins 0x7D) (deframerAt 8 false)).fbufByte 8 = 0x7D := by decide
/-- D-11. -/
theorem test_escSet_again : (afterOp (bytePins 0x7D) (deframerAt 20 true)).pos = 20 ∧
    (afterOp (bytePins 0x7D) (deframerAt 20 true)).esc = true := by decide
/-- D-17. -/
theorem test_escSet_full : (afterOp (bytePins 0x7D) (deframerAt 1024 false)).pos = 1024 ∧
    (afterOp (bytePins 0x7D) (deframerAt 1024 false)).evt = 0 := by decide
/-- D-10. -/
theorem test_unesc_flag : (afterOp (bytePins 0x7E) (deframerAt 20 true)).pos = 21 ∧
    (afterOp (bytePins 0x7E) (deframerAt 20 true)).fbufByte 20 = 0x5E := by decide
/-- D-16. -/
theorem test_unesc_full : (afterOp (bytePins 0x5E) (deframerAt 1024 true)).pos = 0 ∧
    (afterOp (bytePins 0x5E) (deframerAt 1024 true)).esc = false ∧
    (afterOp (bytePins 0x5E) (deframerAt 1024 true)).evt = 0x0004 := by decide
/-- D-14. -/
theorem test_dataStore_last : (afterOp (bytePins 0x41) (deframerAt 1023 false)).pos = 1024 ∧
    (afterOp (bytePins 0x41) (deframerAt 1023 false)).fbufByte 1023 = 0x41 := by decide
/-- D-15. -/
theorem test_overflow : (afterOp (bytePins 0x41) (deframerAt 1024 false)).pos = 0 ∧
    (afterOp (bytePins 0x41) (deframerAt 1024 false)).evt = 0x0004 := by decide
/-- D-18: the FCS bytes are the spec's. -/
theorem test_flagClose_valid :
    (afterOp (bytePins 0x7E) (openFrame [1, 2, 3, 4, 5, 6, 0x0E, 0xB8])).record.evt = 0x0009 ∧
    (afterOp (bytePins 0x7E) (openFrame [1, 2, 3, 4, 5, 6, 0x0E, 0xB8])).frameEvt =
      some ⟨[1, 2, 3, 4, 5, 6], true⟩ := by decide
/-- D-20. -/
theorem test_flagClose_invalid :
    (afterOp (bytePins 0x7E) (openFrame [1, 2, 3, 4, 5, 6, 0, 0])).evt = 0x0802 ∧
    (afterOp (bytePins 0x7E) (openFrame [1, 2, 3, 4, 5, 6, 0, 0])).frameEvt =
      some ⟨[1, 2, 3, 4, 5, 6], false⟩ := by decide
/-- After D-18 and an IDLE or a REASM_RESET step the frame port is still valid, the event gone; the next byte ends it
(70 R178). -/
theorem test_framePort_lifetime :
    (after (afterOp (bytePins 0x7E) (openFrame [1, 2, 3, 4, 5, 6, 0x0E, 0xB8]))).frameOk = true ∧
    (afterOp (wordPins 0x200) (afterOp (bytePins 0x7E) (openFrame [1, 2, 3, 4, 5, 6, 0x0E, 0xB8]))).frameOk = true ∧
    (after (afterOp (bytePins 0x7E) (openFrame [1, 2, 3, 4, 5, 6, 0x0E, 0xB8]))).frameLenOut = 6 ∧
    (after (afterOp (bytePins 0x7E) (openFrame [1, 2, 3, 4, 5, 6, 0x0E, 0xB8]))).frameRdData 5 = 6 ∧
    (after (afterOp (bytePins 0x7E) (openFrame [1, 2, 3, 4, 5, 6, 0x0E, 0xB8]))).frameValidEvt = false ∧
    (afterOp (bytePins 0x41) (afterOp (bytePins 0x7E) (openFrame [1, 2, 3, 4, 5, 6, 0x0E, 0xB8]))).framePort = none := by
  decide
/-- C-1. -/
theorem test_idle : (after (deframerAt 20 true)).status = (deframerAt 20 true).status ∧
    (after (deframerAt 20 true)).evt = 0 := by decide
/-- C-2. -/
theorem test_reset :
    (afterOp (wordPins 0x300) { State.reset with pos := 500, esc := true, count := 7, complete := true, apduLen := 40 }).status
      = ⟨0, false, 0, false, 0⟩ := by decide
/-- C-7: the byte beside `rst` is dropped. -/
theorem test_reset_drops_byte : (afterOp ⟨true, false, true, 0x7E⟩ (deframerAt 5 false)).pos = 0 := by decide
/-- C-3. -/
theorem test_reasmReset :
    (afterOp (wordPins 0x200) { State.reset with pos := 37, count := 4, complete := true, apduLen := 12 }).status
      = ⟨37, false, 0, false, 12⟩ := by decide
/-- C-5: the reset comes first, so block 2 mismatches. -/
theorem test_reasmReset_then_close :
    (afterOp ⟨false, true, true, 0x7E⟩ { goodFrame (headerH ++ gbt 2 true [0x22]) with count := 1 }).evt = 0x0841 := by
  decide +kernel

/-! ### Router and reassembler (sections 2.3 and 2.4) -/

/-- RO-1, RO-2, RO-7, RO-8 and RO-14. -/
theorem test_router :
    (State.reset.route (headerH ++ [0xE6, 0xE7, 0x00, 0xE0, 0x80, 0, 1, 0, 0, 1, 0xAA]) true).evt = 0x0420 ∧
    (State.reset.route (headerH ++ [0xE0, 0x80, 0, 1, 0, 0, 1, 0xAA]) true).apduEvt = some [0xAA] ∧
    (State.reset.route (headerH ++ [0xE6, 0xE7, 0xE0]) true).evt = 0x0008 ∧
    (State.reset.route (headerH ++ [0xE6, 0xE0]) true).evt = 0x0008 ∧
    ((storedAt 3 []).route headerH false).evt = 0x0800 := by decide
/-- RO-9, RO-11 and RO-12. -/
theorem test_admission :
    (State.reset.route (headerH ++ [0xE0]) true).evt = 0x0010 ∧
    (State.reset.route (headerH ++ [0xE0, 0x80, 0, 1, 0, 0, 3, 0xAA, 0xBB]) true).evt = 0x0010 ∧
    (State.reset.route (headerH ++ [0xE0, 0x80, 0, 1, 0, 0, 1, 0xAA, 0xBB, 0xCC]) true).apduEvt = some [0xAA] := by decide
/-- RA-2's last block, RA-4, RA-6, RA-13 and RA-18. -/
theorem test_blocks :
    (((State.reset.blockIn (gbt 1 false [1])).blockIn (gbt 2 false [2])).blockIn (gbt 3 true [3])).apduEvt =
      some [1, 2, 3] ∧
    (State.reset.blockIn (gbt 0 false [1])).evt = 0x0040 ∧
    (({ State.reset.blockIn (gbt 1 false [1]) with evt := 0 }).blockIn (gbt 1 true [9])).evt = 0x04E0 ∧
    (State.reset.blockIn (gbt 0x101 true [1])).evt = 0x0040 ∧
    ((storedAt 50 []).blockIn (gbt 51 true [1])).evt = 0x0100 := by decide
/-- RA-15 and RA-16 at the limit of 1024 bytes (the lengths 4 * 255 + 5 and 4 * 255 + 4). -/
theorem test_apdu_limit :
    ((storedAt 4 fourLengths).blockIn (gbt 5 true [0, 0, 0, 0, 0])).evt = 0x0220 ∧
    ((storedAt 4 fourLengths).blockIn (gbt 5 true [0, 0, 0, 0])).status = ⟨0, false, 0, true, 1024⟩ := by decide

/-! ### Streams (30 R75, 95 P1 and P2's first frame) -/

theorem test_wireFrame :
    wireFrame (hdr 15) ([0xE6, 0xE7, 0x00] ++ gbt 1 true [0x0F, 0x00, 0x02, 0x32, 0x24]) =
      [0x7E, 0xA0, 0x19, 0xCE, 0xFF, 0x03, 0x13, 0x73, 0xC9, 0xE6, 0xE7, 0x00, 0xE0, 0x80, 0x00, 0x01, 0x00, 0x00,
        0x05, 0x0F, 0x00, 0x02, 0x32, 0x24, 0x67, 0xAD, 0x7E] := by decide +kernel
theorem test_stuff : stuff [0x01, 0x7E, 0x7D] = [0x01, 0x7D, 0x5E, 0x7D, 0x5D] := by decide
/-- P1's closing step. -/
theorem test_P1_close :
    (afterOp (bytePins 0x7E)
      (goodFrame (hdr 15 ++ [0xE6, 0xE7, 0x00] ++ gbt 1 true [0x0F, 0x00, 0x02, 0x32, 0x24]))).record =
      ⟨0x0421, some ⟨[0xA0, 0x19, 0xCE, 0xFF, 0x03, 0x13, 0x73, 0xC9, 0xE6, 0xE7, 0x00, 0xE0, 0x80, 0x00, 0x01, 0x00,
        0x00, 0x05, 0x0F, 0x00, 0x02, 0x32, 0x24], true⟩, some [0x0F, 0x00, 0x02, 0x32, 0x24],
        ⟨0, false, 0, true, 5⟩⟩ := by decide +kernel

/-! ### Witnesses: the hypotheses of each obligation, met together -/

/-- DecodeOfEncode, at the bounds of the rows' conditions. -/
theorem test_meets_decodeOfEncode :
    (Instr.flagOpen.wf = true ∧ Instr.flagOpen.selected 1 false = true) ∧
    (Instr.flagHdr.wf = true ∧ Instr.flagHdr.selected 8 false = true) ∧
    (Instr.flagClose.wf = true ∧ Instr.flagClose.selected 9 false = true) ∧
    (Instr.escSet.wf = true ∧ Instr.escSet.selected 9 true = true) ∧
    (Instr.escHdr.wf = true ∧ Instr.escHdr.selected 8 false = true) ∧
    ((Instr.unesc 0x7E).wf = true ∧ (Instr.unesc 0x7E).selected 1024 true = true) ∧
    ((Instr.dataStore 0x41).wf = true ∧ (Instr.dataStore 0x41).selected 1023 false = true) ∧
    ((Instr.overflow 0x41).wf = true ∧ (Instr.overflow 0x41).selected 1024 false = true) := by decide

/-- OperationWordsLegalDataIgnored: the last legal number and the first illegal one. -/
theorem test_meets_operationWords : (∃ w : Nat, 1024 ≤ w) ∧ ∃ w : Nat, w < 1024 := ⟨⟨1024, by decide⟩, ⟨1023, by decide⟩⟩

/-- StepRunsDecodedInstruction, its three clauses. -/
theorem test_meets_stepRuns :
    pinWords State.reset.nextPins = [0x000#10] ∧ State.reset.inputs = [] ∧
    pinWords ({ State.reset with inputs := [bytePins 0x7E] } : State).nextPins = [0x17E#10] ∧
    ({ State.reset with inputs := [wordPins 0x3FF, quietPins] } : State).inputs = wordPins 0x3FF :: [quietPins] := by
  decide

/-- CombinedResetThenByte. -/
theorem test_meets_combined :
    ({ State.reset with inputs := [⟨false, true, true, 0x7E⟩] } : State).inputs = ⟨false, true, true, 0x7E⟩ :: [] := rfl

/-- RstOverridesOtherPins. -/
theorem test_meets_rst :
    ({ State.reset with inputs := [⟨true, true, true, 0x7E⟩] } : State).inputs = ⟨true, true, true, 0x7E⟩ :: [] := rfl

/-- IdleKeepsEverything. -/
theorem test_meets_idle : pinWords (deframerAt 9 true).nextPins = [0x000#10] ∧ opField 0x000#10 = 0 := by decide

/-- FlagOpenResult, at both positions. -/
theorem test_meets_flagOpen : ((deframerAt 0 false).esc = false ∧ (deframerAt 0 false).pos ≤ 1) ∧
    (deframerAt 1 false).esc = false ∧ (deframerAt 1 false).pos ≤ 1 := by decide

/-- HeaderBytesStored: FLAG.HDR at 2 and 8, ESC.HDR at 0 and 8. -/
theorem test_meets_headerBytes :
    (∃ (s : State) (i : Instr) (v : Byte), s.esc = false ∧ s.pos ≤ 8 ∧ i = .flagHdr ∧ v = 0x7E ∧ 2 ≤ s.pos) ∧
    (∃ s : State, s.esc = false ∧ s.pos = 8 ∧ s.pos ≤ 8 ∧ 2 ≤ s.pos) ∧
    ∃ (s : State) (i : Instr) (v : Byte), s.esc = false ∧ s.pos ≤ 8 ∧ i = .escHdr ∧ v = 0x7D :=
  ⟨⟨deframerAt 2 false, .flagHdr, 0x7E, by decide⟩, ⟨deframerAt 8 false, by decide⟩,
    ⟨deframerAt 0 false, .escHdr, 0x7D, by decide⟩⟩

/-- EscSetResult, at both ends. -/
theorem test_meets_escSet : 9 ≤ (deframerAt 9 false).pos ∧ 9 ≤ (deframerAt 1024 true).pos := by decide

/-- UnescResult: the last free place and the full buffer. -/
theorem test_meets_unesc :
    ((deframerAt 1023 true).esc = true ∧ ¬ ((0x7E : Byte) = 0x7D ∧ 9 ≤ (deframerAt 1023 true).pos) ∧
      (deframerAt 1023 true).pos < 1024) ∧
    (deframerAt 1024 true).esc = true ∧ ¬ ((0x5E : Byte) = 0x7D ∧ 9 ≤ (deframerAt 1024 true).pos) ∧
      1024 ≤ (deframerAt 1024 true).pos := by decide

/-- DataStoreResult: the last free place and the full buffer. -/
theorem test_meets_dataStore :
    ((deframerAt 1023 false).esc = false ∧ (0x41 : Byte) ≠ 0x7E ∧ (0x41 : Byte) ≠ 0x7D ∧ (deframerAt 1023 false).pos < 1024) ∧
    (deframerAt 1024 false).esc = false ∧ 1024 ≤ (deframerAt 1024 false).pos := by decide

/-- OverflowResult. -/
theorem test_meets_overflow : 1024 ≤ (deframerAt 1024 false).pos := by decide

/-- FlagCloseResult and FlagCloseFrame, at the shortest and the longest frame. -/
theorem test_meets_flagClose :
    ((deframerAt 9 false).evt = 0 ∧ (deframerAt 9 false).esc = false ∧ 9 ≤ (deframerAt 9 false).pos) ∧
    (deframerAt 1024 false).evt = 0 ∧ (deframerAt 1024 false).esc = false ∧ 9 ≤ (deframerAt 1024 false).pos := by decide

/-- FlagCloseFrame's clauses: a close that stores no block, and one that neither emits nor resets. -/
theorem test_meets_flagCloseFrame :
    (afterOp (bytePins 0x7E) (openFrame [1, 2, 3, 4, 5, 6, 0, 0])).signalled .blockStored = false ∧
    (afterOp (bytePins 0x7E) (openFrame [1, 2, 3, 4, 5, 6, 0x0E, 0xB8])).signalled .apduEmit = false ∧
    (afterOp (bytePins 0x7E) (openFrame [1, 2, 3, 4, 5, 6, 0x0E, 0xB8])).signalled .reasmResetDone = false := by decide

/-- EscapePairs, at both ends. -/
theorem test_meets_escapePairs :
    (9 ≤ (deframerAt 9 false).pos ∧ (deframerAt 9 false).pos < 1024) ∧
    9 ≤ (deframerAt 1023 true).pos ∧ (deframerAt 1023 true).pos < 1024 ∧ (0x7E : Byte) ≠ 0x7D := by decide

/-- FrameWithoutOpeningFlag. -/
theorem test_meets_withoutFlag : State.reset.esc = false ∧ State.reset.pos = 0 ∧ (0x7D : Byte) ≠ 0x7E := by decide

/-- PayloadLengthBounds and FramePortShowsPayload: the shortest frame. -/
theorem test_meets_frameEvent : ∃ (s t : State) (f : FrameEvent), s.pos ≤ 1024 ∧ step s = .next t ∧ t.frameEvt = some f :=
  ⟨{ openFrame [1, 2, 3, 4, 5, 6, 0x0E, 0xB8] with inputs := [bytePins 0x7E] }, _, ⟨[1, 2, 3, 4, 5, 6], true⟩,
    by decide, rfl, by decide⟩

/-- The frame port's clauses: an address inside the payload, and an invalid frame shown before a REASM_RESET step. -/
theorem test_meets_framePort : (5#10).toNat < [1, 2, 3, 4, 5, (6 : Byte)].length ∧
    ∃ (s t : State) (p : FramePort), step s = .next t ∧ s.nextPins.rst = false ∧ s.nextPins.inValid = false ∧
      s.framePort = some p ∧ (5#10).toNat < p.len :=
  ⟨by decide, { openFrame [1, 2, 3, 4, 5, 6, 0, 0] with framePort := some ⟨6, false⟩, inputs := [wordPins 0x200] }, _,
    ⟨6, false⟩, rfl, by decide, by decide, rfl, by decide⟩

/-- The APDU port's second clause: a byte step with an APDU held. -/
theorem test_meets_apduPort : ∃ s t : State, step s = .next t ∧ s.nextPins.rst = false ∧ t.apduEvt = none ∧
    (0#10).toNat < s.apduLen :=
  ⟨{ State.reset with apdu := [(0, 0xAA)], apduLen := 1, inputs := [bytePins 0x7E] }, _, rfl, by decide⟩

/-- OverflowEventAlone, with its last clause. -/
theorem test_meets_overflowAlone : ∃ s t : State, step s = .next t ∧ t.signalled .hdlcOverflow = true ∧
    s.nextPins.reasmReset = false :=
  ⟨{ deframerAt 1024 false with inputs := [bytePins 0x41] }, _, rfl, by decide⟩

/-- InvalidFrameResets. -/
theorem test_meets_invalidFrame : ∃ s : State, s.esc = false ∧ 9 ≤ s.pos ∧
    u16be (s.fbufByte (s.pos - 2)) (s.fbufByte (s.pos - 1)) ≠ swap16 (fcs s.payload ^^^ 0xFFFF) :=
  ⟨openFrame [1, 2, 3, 4, 5, 6, 0, 0], by decide⟩

/-- NonGbtFrameDropped, with the LLC header skipped (RO-6) and without it (D-18). -/
theorem test_meets_nonGbt (p : List Byte) (h : p = headerH ++ [0xE6, 0xE7, 0x00] ∨ p = [1, 2, 3, 4, 5, 6]) :
    ∃ s : State, s.esc = false ∧ 9 ≤ s.pos ∧ s.payload = p ∧
      u16be (s.fbufByte (s.pos - 2)) (s.fbufByte (s.pos - 1)) = swap16 (fcs s.payload ^^^ 0xFFFF) ∧
      s.payload[if s.payload[8]? = some 0xE6 ∧ s.payload[9]? = some 0xE7 then 11 else 8]? ≠ some 0xE0 := by
  rcases h with rfl | rfl
  · exact ⟨goodFrame (headerH ++ [0xE6, 0xE7, 0x00]), by decide⟩
  · exact ⟨goodFrame [1, 2, 3, 4, 5, 6], by decide⟩

/-- GbtFrameForwarded, at both cursors. -/
theorem test_meets_gbtFrame (c : Nat) (h : c = 8 ∨ c = 11) :
    ∃ s : State, s.esc = false ∧ 9 ≤ s.pos ∧
      u16be (s.fbufByte (s.pos - 2)) (s.fbufByte (s.pos - 1)) = swap16 (fcs s.payload ^^^ 0xFFFF) ∧
      c = (if s.payload[8]? = some 0xE6 ∧ s.payload[9]? = some 0xE7 then 11 else 8) ∧ s.payload[c]? = some 0xE0 := by
  rcases h with rfl | rfl
  · exact ⟨goodFrame (headerH ++ gbt 1 true [0xAA]), by decide +kernel⟩
  · exact ⟨goodFrame (headerH ++ [0xE6, 0xE7, 0x00] ++ gbt 1 true [0xAA]), by decide +kernel⟩

/-- ShortPayloads: 8 bytes (RO-4), and 9 bytes with the tag last (RO-9). -/
theorem test_meets_shortPayloads : headerH.length ≤ 8 ∧ (headerH ++ [0xE0]).length = 9 ∧
    (headerH ++ [0xE0])[8]? = some 0xE0 := by decide

/-- RouterIgnoresHeader: other header bytes and another LLC control byte. -/
theorem test_meets_routerIgnores : ∃ p q : List Byte, p ≠ q ∧ p.length = q.length ∧
    (∀ i, 8 ≤ i → i ≠ 10 → p[i]? = q[i]?) ∧
    (p[10]? = q[10]? ∨ (p[8]? = some 0xE6 ∧ p[9]? = some 0xE7)) := by
  refine ⟨[0, 0, 0, 0, 0, 0, 0, 0, 0xE6, 0xE7, 0, 0xE0], [1, 1, 1, 1, 1, 1, 1, 1, 0xE6, 0xE7, 5, 0xE0], by decide,
    rfl, fun i h8 h10 => ?_, by decide⟩
  obtain rfl | rfl | rfl | h : i = 8 ∨ i = 9 ∨ i = 11 ∨ 12 ≤ i := by omega
  · rfl
  · rfl
  · rfl
  · rw [List.getElem?_eq_none h, List.getElem?_eq_none h]

/-- MalformedBlockDropped: 6 bytes (RO-10), and a content one byte short. -/
theorem test_meets_malformed : ((gbt 1 true []).take 6).length < 7 ∧
    [0xE0, 0x80, 0, 1, 0, 0, 2, (0xAA : Byte)].length < 7 + ((([0xE0, 0x80, 0, 1, 0, 0, 2, 0xAA] : List Byte)).getD 6 0).toNat := by
  decide

/-- BlockInSequenceStored, at the first and the last slot. -/
theorem test_meets_inSequence (n : Nat) (h : n = 0 ∨ n = 49) : ∃ (s : State) (B : List Byte),
    7 + (B.getD 6 0).toNat ≤ B.length ∧ s.count = n ∧ (u16be (B.getD 2 0) (B.getD 3 0)).toNat = s.count + 1 ∧
    s.count + 1 ≤ 50 ∧ (B.getD 1 0).getLsbD 7 = false := by
  rcases h with rfl | rfl
  · exact ⟨storedAt 0 [], gbt 1 false [0xAA], by decide⟩
  · exact ⟨storedAt 49 [], gbt 50 false [], by decide⟩

/-- MismatchedBlockDropped (RA-3). -/
theorem test_meets_mismatch : ∃ (s : State) (B : List Byte), 7 + (B.getD 6 0).toNat ≤ B.length ∧
    (u16be (B.getD 2 0) (B.getD 3 0)).toNat ≠ s.count + 1 ∧ u16be (B.getD 2 0) (B.getD 3 0) ≠ 1 :=
  ⟨State.reset, gbt 2 false [0xAA], by decide⟩

/-- BlockOneRestarts, not last (RA-5) and last (RA-20). -/
theorem test_meets_restart (l : Bool) : ∃ (s : State) (B : List Byte), 7 + (B.getD 6 0).toNat ≤ B.length ∧
    u16be (B.getD 2 0) (B.getD 3 0) = 1 ∧ s.count ≠ 0 ∧ (B.getD 1 0).getLsbD 7 = l := by
  cases l
  · exact ⟨storedAt 1 [], gbt 1 false [9], by decide⟩
  · exact ⟨storedAt 50 [], gbt 1 true [0xAB], by decide⟩

/-- SlotFullResets (RA-18). -/
theorem test_meets_slotFull : ∃ (s : State) (B : List Byte) (Bs : List (List Byte)),
    7 + (B.getD 6 0).toNat ≤ B.length ∧ s.count = 50 ∧ (u16be (B.getD 2 0) (B.getD 3 0)).toNat = 51 ∧
    Bs ≠ [] ∧ ∀ C ∈ Bs, u16be (C.getD 2 0) (C.getD 3 0) ≠ 1 :=
  ⟨storedAt 50 [], gbt 51 false [0], [gbt 52 true [0]], by decide⟩

/-- TooLargeEmitsNothing, with a total of 1025. -/
theorem test_meets_tooLarge : ∃ (s : State) (B : List Byte), 7 + (B.getD 6 0).toNat ≤ B.length ∧
    (u16be (B.getD 2 0) (B.getD 3 0)).toNat = s.count + 1 ∧ s.count + 1 ≤ 50 ∧ (B.getD 1 0).getLsbD 7 = true ∧
    1024 < s.slotTotal s.count + (B.getD 6 0).toNat :=
  ⟨storedAt 4 fourLengths, gbt 5 true [0, 0, 0, 0, 0], by decide⟩

/-- LastBlockEmits, with a total of 1024. -/
theorem test_meets_lastBlock : ∃ (s : State) (B a : List Byte), 7 + (B.getD 6 0).toNat ≤ B.length ∧
    (u16be (B.getD 2 0) (B.getD 3 0)).toNat = s.count + 1 ∧ s.count + 1 ≤ 50 ∧ (B.getD 1 0).getLsbD 7 = true ∧
    s.slotTotal s.count + (B.getD 6 0).toNat ≤ 1024 ∧ a = s.slotContents s.count ++ (B.drop 7).take (B.getD 6 0).toNat :=
  ⟨storedAt 4 fourLengths, gbt 5 true [0, 0, 0, 0], _, by decide, by decide, by decide, by decide, by decide, rfl⟩

/-- ReassemblerIgnoresFields (RA-14): another streaming bit, window, ack number and a trailing byte. -/
theorem test_meets_ignoredFields : ∃ B C : List Byte, B ≠ C ∧
    7 + (B.getD 6 0).toNat ≤ B.length ∧ 7 + (B.getD 6 0).toNat ≤ C.length ∧
    (B.getD 1 0).getLsbD 7 = (C.getD 1 0).getLsbD 7 ∧
    ∀ i, i < 7 + (B.getD 6 0).toNat → (i = 2 ∨ i = 3 ∨ 6 ≤ i) → B.getD i 0 = C.getD i 0 :=
  ⟨gbt 1 true [4], [0xE0, 0xFF, 0, 1, 0xFF, 0xFF, 1, 4, 0x99], by decide, by decide, by decide, by decide, by decide⟩

/-- Its clause on the kept blocks: slot 1 after a block that is not last. -/
theorem test_meets_keptBlock : 1 ≤ (State.reset.blockIn (gbt 1 false [4])).count := by decide

/-- BlocksReassemble: two blocks. -/
theorem test_meets_blocks : ∃ (s : State) (Bs : List (List Byte)) (B : List Byte), s.count = 0 ∧ Bs.length + 1 ≤ 50 ∧
    (∀ i, ∀ C, (Bs ++ [B])[i]? = some C →
      malformed C = false ∧ (blockNumber C).toNat = i + 1 ∧ isLast C = decide (i = Bs.length)) ∧
    ((Bs ++ [B]).map contentLen).sum ≤ 1024 := by
  refine ⟨State.reset, [gbt 1 false [1]], gbt 2 true [2], rfl, by decide, fun i C h => ?_, by decide⟩
  match i with
  | 0 => obtain rfl : gbt 1 false [1] = C := Option.some.inj h; decide
  | 1 => obtain rfl : gbt 2 true [2] = C := Option.some.inj h; decide
  | i + 2 => simp at h

/-- MismatchNeedsFreshBlockOne (RA-8). -/
theorem test_meets_freshBlockOne : ∃ (s : State) (B : List Byte) (Bs : List (List Byte)), malformed B = false ∧
    (blockNumber B).toNat ≠ s.count + 1 ∧ ∀ C ∈ B :: Bs, blockNumber C ≠ 1 :=
  ⟨storedAt 1 [], gbt 3 false [2], [gbt 2 true [5]], by decide⟩

/-- A step that emits an APDU: ApduPortShowsEmittedApdu and ApduLenWriters. -/
theorem test_meets_apduEvent : ∃ (s t : State) (a : List Byte), step s = .next t ∧ t.apduEvt = some a ∧
    (0#10).toNat < a.length :=
  ⟨{ goodFrame (headerH ++ gbt 1 true [0xAA]) with inputs := [bytePins 0x7E] }, _, [0xAA], rfl, by decide +kernel, by decide⟩

/-- ApduLenWriters, a RESET step and a step without an APDU. -/
theorem test_meets_apduLen :
    (∃ s t : State, step s = .next t ∧ s.nextPins.rst = true) ∧
    ∃ s t : State, step s = .next t ∧ s.nextPins.rst = false ∧ t.apduEvt = none :=
  ⟨⟨{ State.reset with inputs := [wordPins 0x300] }, _, rfl, by decide⟩, ⟨State.reset, _, rfl, by decide⟩⟩

/-- StatusOutputsAreRegisters, at the registers' bounds. -/
theorem test_meets_status : ∃ s : State, s.pos ≤ 1024 ∧ s.count ≤ 50 ∧ s.apduLen ≤ 1024 ∧ s.pos = 1024 ∧ s.count = 50 :=
  ⟨{ State.reset with pos := 1024, count := 50, apduLen := 1024 }, by decide⟩

/-- CompleteIsSticky: a step that sets `complete`, and one that clears it. -/
theorem test_meets_complete :
    (∃ s t : State, step s = .next t ∧ s.complete = false ∧ t.complete = true) ∧
    ∃ s t : State, step s = .next t ∧ s.complete = true ∧ t.complete = false :=
  ⟨⟨{ goodFrame (headerH ++ gbt 1 true [0xAA]) with inputs := [bytePins 0x7E] }, _, rfl, by decide +kernel⟩,
    ⟨{ State.reset with complete := true, inputs := [wordPins 0x200] }, _, rfl, by decide⟩⟩

/-- PosAndCountMoves and OnlyTheseEventVectors: a step. -/
theorem test_meets_step : ∃ s t : State, step s = .next t ∧ t.evt = 0x0841 :=
  ⟨{ goodFrame (headerH ++ gbt 2 true [0x22]) with count := 1, inputs := [⟨false, true, true, 0x7E⟩] }, _, rfl, by decide +kernel⟩

/-- A frame about to close, with block 1 stored: StepKeepsDeframerInv, StepKeepsReasmInv and StepKeepsMemoryInv. -/
def closing : State :=
  { goodFrame (headerH ++ gbt 2 true [0xBB]) with
    count := 1, slot := Memory.writeBytes [] 0 (gbt 1 false [0xAA]), inputs := [bytePins 0x7E] }

theorem test_meets_deframerInv : DeframerInv closing ∧ ∃ t, step closing = .next t :=
  ⟨⟨by decide, by decide, by decide⟩, _, rfl⟩

theorem test_meets_reasmInv : ReasmInv closing := by
  refine ⟨by decide, fun k h1 h2 => ?_⟩
  obtain rfl : k = 1 := by have : k ≤ 1 := h2; omega
  exact ⟨gbt 1 false [0xAA], by decide, by decide, by decide, by decide, by decide⟩

theorem test_meets_memoryInv : MemoryInv closing := ⟨by decide, by decide, by decide⟩

/-- StepKeepsOutputInv: an APDU event, a held APDU and a frame the port still shows. -/
theorem test_meets_outputInv : ∃ s : State, DeframerInv s ∧ OutputInv s ∧ s.apduEvt = some [0xAA] ∧
    s.frameEvt = some ⟨[1, 2, 3, 4, 5, 6], true⟩ := by
  refine ⟨{ openFrame [1, 2, 3, 4, 5, 6, 0x0E, 0xB8] with
      pos := 0, apdu := [(0, 0xAA)], apduLen := 1, apduEvt := some [0xAA], framePort := some ⟨6, true⟩,
      frameEvt := some ⟨[1, 2, 3, 4, 5, 6], true⟩ },
    ⟨by decide, by decide, by decide⟩, ⟨by decide, by decide, ?_, by decide, ?_⟩, rfl, rfl⟩
  · rintro a ⟨rfl⟩; decide
  · rintro f ⟨rfl⟩; decide

/-- StaleBytesInvisible: two states that differ in a stale byte. -/
theorem test_meets_stale : ∃ s s' t : State, s ≠ s' ∧ SameVisible s s' ∧ step s = .next t := by
  refine ⟨{ State.reset with fbuf := [(0, 1)] }, { State.reset with fbuf := [(0, 2)] }, _, by decide, ?_, rfl⟩
  constructor
  case fbuf => intro i _ h; exact absurd h (Nat.not_lt_zero i)
  case slot => intro k h h'; have : k ≤ 0 := h'; omega
  case apdu => intro i h; exact absurd h (Nat.not_lt_zero i)
  case shown => intro i h; exact absurd h (Nat.not_lt_zero i)
  all_goals rfl

/-- StuffRoundTrip: the bytes fill the buffer. -/
theorem test_meets_stuff : (deframerAt 1022 false).esc = false ∧ 9 ≤ (deframerAt 1022 false).pos ∧
    (deframerAt 1022 false).pos + [0x7E, (0x7D : Byte)].length ≤ 1024 := by decide

/-- FrameDelivered, with a repeated opening flag and an empty information field. -/
theorem test_meets_frameDelivered : (deframerAt 1 false).esc = false ∧ (deframerAt 1 false).pos ≤ 1 ∧
    headerH.length = 8 ∧ headerH.head? ≠ some 0x7E ∧ 11 + ([] : List Byte).length ≤ 1024 := by decide

/-- TransferOverTheWire: two frames, with and without the LLC header. -/
theorem test_meets_transfer : ∃ (s : State) (fs : List (List Byte × List Byte)) (cs : List (List Byte)),
    s.esc = false ∧ s.pos ≤ 1 ∧ s.count = 0 ∧ cs ≠ [] ∧ cs.length ≤ 50 ∧ fs.length = cs.length ∧
    (∀ f ∈ fs, f.1.length = 8 ∧ f.1.head? ≠ some 0x7E ∧ (f.2 = [] ∨ ∃ x, f.2 = [0xE6, 0xE7, x])) ∧
    (∀ c ∈ cs, c.length ≤ 255) ∧ (cs.map List.length).sum ≤ 1024 := by
  refine ⟨State.reset, [(headerH, [0xE6, 0xE7, 0x00]), (headerH, [])], [[0x01], [0x02]], rfl, by decide, rfl, by decide,
    by decide, rfl, ?_, by decide, by decide⟩
  intro f hf
  simp only [List.mem_cons, List.not_mem_nil, or_false] at hf
  rcases hf with rfl | rfl
  · exact ⟨rfl, by decide, .inr ⟨0x00, rfl⟩⟩
  · exact ⟨rfl, by decide, .inl rfl⟩

end Sys2Proof.Tests
end

section
/-! PROOFS of the family 10_state.md: who writes `complete` and `apdu_len`, and the status outputs. Every operation but
RESET either keeps the last emitted APDU's length and event, changing `complete` at most by a signalled full reset, or
it emits (`State.keepsApdu`, `State.emitted`); the step's clauses follow from these two cases. -/

namespace Sys2Proof.Machine

/-! ### Event bits -/

theorem State.signalled_signal (s : State) (e : Event) : (s.signal e).signalled e = true := by
  simp only [State.signalled, State.signal_evt, BitVec.getLsbD_or, Bool.or_eq_true]
  right
  cases e <;> decide

/-- An event stays signalled when bits are added to the vector. -/
theorem State.adds.signalled {s t : State} {v : Half} {e : Event} (h : s.adds t v) (he : s.signalled e = true) :
    t.signalled e = true := by
  unfold State.signalled at *
  rw [h, BitVec.getLsbD_or, he, Bool.true_or]

/-! ### Keeping and emitting the APDU -/

/-- `t` comes from `s` without an emission: `apdu_len` and the APDU event stand, and `complete` stands or was cleared by
a signalled full reset (rules R24, R26). -/
structure State.keepsApdu (s t : State) : Prop where
  apduLen : t.apduLen = s.apduLen
  apduEvt : t.apduEvt = s.apduEvt
  complete : t.complete = s.complete ∨ (t.complete = false ∧ t.signalled .reasmResetDone = true)
  adds : ∃ v, s.adds t v

/-- What an emission leaves (spec/43_reassembler.md rule R126). -/
structure State.emitted (t : State) : Prop where
  apduEvt : ∃ a, t.apduEvt = some a ∧ t.apduLen = a.length ∧ a.length ≤ 1024
  complete : t.complete = true
  signalled : t.signalled .apduEmit = true

theorem State.keepsApdu.refl (s : State) : s.keepsApdu s := ⟨rfl, rfl, .inl rfl, 0, by simp [State.adds]⟩

theorem State.keepsApdu.trans {s t u : State} (h : s.keepsApdu t) (h' : t.keepsApdu u) : s.keepsApdu u := by
  obtain ⟨v, hv⟩ := h.adds
  obtain ⟨w, hw⟩ := h'.adds
  refine ⟨h'.apduLen.trans h.apduLen, h'.apduEvt.trans h.apduEvt, ?_, v ||| w, State.adds_trans hv hw⟩
  rcases h'.complete with hu | hu
  · rcases h.complete with ht | ⟨ht, hd⟩
    · exact .inl (hu.trans ht)
    · exact .inr ⟨hu.trans ht, hw.signalled hd⟩
  · exact .inr hu

/-- A prefix that keeps the APDU changes nothing about whether the whole keeps or emits. -/
theorem State.keepsApdu.trans_or {s t u : State} (h : s.keepsApdu t) (h' : t.keepsApdu u ∨ u.emitted) :
    s.keepsApdu u ∨ u.emitted := h'.imp_left h.trans

theorem State.signal_keepsApdu (s : State) (e : Event) : s.keepsApdu (s.signal e) := ⟨rfl, rfl, .inl rfl, _, rfl⟩

theorem State.seqReset_keepsApdu (s : State) : s.keepsApdu s.seqReset :=
  ⟨rfl, rfl, .inl rfl, (State.keepsApdu.refl s).adds⟩

theorem State.storeBlock_keepsApdu (s : State) (k : Nat) (B : List Byte) : s.keepsApdu (s.storeBlock k B) :=
  ⟨rfl, rfl, .inl rfl, _, rfl⟩

theorem State.overflowFrame_keepsApdu (s : State) : s.keepsApdu s.overflowFrame := ⟨rfl, rfl, .inl rfl, _, rfl⟩

theorem State.closeFrame_keepsApdu (s : State) : s.keepsApdu s.closeFrame := ⟨rfl, rfl, .inl rfl, _, rfl⟩

theorem State.reasmFullReset_keepsApdu (s : State) : s.keepsApdu s.reasmFullReset :=
  ⟨rfl, rfl, .inr ⟨rfl, State.signalled_signal _ _⟩, _, rfl⟩

/-- An emission within the cap (rules R124, R126). -/
theorem State.emitApdu_emitted {s : State} (h : s.slotTotal s.count ≤ 1024) : s.emitApdu.emitted where
  apduEvt := ⟨_, rfl, (s.slotContents_length s.count).symm, (s.slotContents_length s.count).trans_le h⟩
  complete := rfl
  signalled := State.signalled_signal _ _

theorem State.lastCheck_keeps_or_emitted (s : State) (B : List Byte) :
    s.keepsApdu (s.lastCheck B) ∨ (s.lastCheck B).emitted := by
  rcases s.lastCheck_cases B with ⟨_, h⟩ | ⟨_, _, h⟩ | ⟨_, hle, h⟩ <;> rw [h]
  · exact .inl (.refl s)
  · exact .inl (s.seqReset_keepsApdu.trans (State.signal_keepsApdu _ _))
  · exact .inr (State.emitApdu_emitted hle)

theorem State.blockIn_keeps_or_emitted (s : State) (B : List Byte) :
    s.keepsApdu (s.blockIn B) ∨ (s.blockIn B).emitted := by
  have mismatch : s.keepsApdu (s.signal .seqMismatch).seqReset :=
    (s.signal_keepsApdu _).trans (State.seqReset_keepsApdu _)
  rcases s.blockIn_cases B with ⟨_, h⟩ | ⟨_, _, _, h⟩ | ⟨_, _, _, h⟩ | ⟨_, _, _, h⟩ | ⟨_, _, _, h⟩ <;> rw [h]
  · exact .inl (s.signal_keepsApdu _)
  · exact .inl mismatch
  · have restart := mismatch.trans (State.signal_keepsApdu _ .seqRestart)
    exact (restart.trans (State.storeBlock_keepsApdu _ 1 B)).trans_or (State.lastCheck_keeps_or_emitted _ B)
  · exact .inl ((s.signal_keepsApdu _).trans (State.seqReset_keepsApdu _))
  · exact (s.storeBlock_keepsApdu _ B).trans_or (State.lastCheck_keeps_or_emitted _ B)

theorem State.route_keeps_or_emitted (s : State) (p : List Byte) (valid : Bool) :
    s.keepsApdu (s.route p valid) ∨ (s.route p valid).emitted := by
  rcases s.route_cases p valid with ⟨_, h⟩ | ⟨_, _, h⟩ | ⟨_, _, h⟩ <;> rw [h]
  · exact .inl s.reasmFullReset_keepsApdu
  · exact .inl (s.signal_keepsApdu _)
  · exact s.blockIn_keeps_or_emitted _

/-- A consumed byte keeps the APDU or emits one. -/
theorem exec_decodeByte_keeps_or_emitted {s t : State} {d : Byte}
    (h : exec (decodeByte s.pos s.esc d) s = .next t) : s.keepsApdu t ∨ t.emitted := by
  have unchanged := (State.keepsApdu.refl s).adds
  rcases exec_decodeByte_cases s d with ⟨_, _, _, e⟩ | ⟨_, _, _, e⟩ | ⟨_, _, e⟩ | ⟨_, _, e⟩ | ⟨_, e⟩ <;>
    obtain rfl := Host.Outcome.next.inj (e.symm.trans h)
  · exact .inl ⟨rfl, rfl, .inl rfl, unchanged⟩
  · exact s.closeFrame_keepsApdu.trans_or (State.route_keeps_or_emitted _ _ _)
  · exact .inl ⟨rfl, rfl, .inl rfl, unchanged⟩
  · exact .inl ⟨rfl, rfl, .inl rfl, unchanged⟩
  · exact .inl s.overflowFrame_keepsApdu

/-- What a step does to the APDU's registers and event: RESET, or from the step's start they are kept or an APDU is
emitted. -/
theorem step_keeps_or_emitted {s t : State} (h : step s = .next t) :
    (s.nextPins.rst = true ∧ t = s.beginStep.resetBlock) ∨
    (s.nextPins.rst = false ∧ (s.beginStep.keepsApdu t ∨ t.emitted)) := by
  rcases step_cases h with hrst | ⟨hrst, b, hb, ht⟩
  · exact .inl hrst
  have start : s.beginStep.keepsApdu b := by
    rcases hb with ⟨rfl, _⟩ | ⟨rfl, _⟩
    · exact .refl _
    · exact State.reasmFullReset_keepsApdu _
  refine .inr ⟨hrst, ?_⟩
  rcases ht with rfl | ⟨_, hbyte⟩
  · exact .inl start
  · exact start.trans_or (exec_decodeByte_keeps_or_emitted hbyte)

/-! ### Status outputs -/

/-- A register that fits its output's width is shown whole. -/
theorem toNat_ofNat_of_lt {w n : Nat} (h : n < 2 ^ w) : (BitVec.ofNat w n).toNat = n :=
  (BitVec.toNat_ofNat n w).trans (Nat.mod_eq_of_lt h)

/-! ### The obligations -/

/-- Settles O48: a step that does not emit can only clear `complete`, by a signalled full reset or RESET. -/
theorem completeIsSticky : Obligations.CompleteIsSticky := by
  intro s t h
  rcases step_keeps_or_emitted h with ⟨hrst, rfl⟩ | ⟨hrst, keeps | emitted⟩
  · simp [hrst]
  · have hevt : t.apduEvt = none := keeps.apduEvt
    rcases keeps.complete with hc | ⟨hc, hdone⟩
    · cases hs : s.complete <;> simp [hc, hs, hevt, hrst]
    · simp [hc, hdone, hevt]
  · simp [emitted.complete, emitted.signalled, hrst]

/-- Settles O49: outside RESET, a step without an APDU event made no emission, and one with an event emitted it. -/
theorem apduLenWriters : Obligations.ApduLenWriters := by
  intro s t h
  rcases step_keeps_or_emitted h with ⟨hrst, rfl⟩ | ⟨hrst, keeps | emitted⟩
  · simp [hrst]
  · have hevt : t.apduEvt = none := keeps.apduEvt
    have hlen : t.apduLen = s.apduLen := keeps.apduLen
    simp [hrst, hevt, hlen]
  · obtain ⟨a, hevt, hlen, hle⟩ := emitted.apduEvt
    simp [hrst, hevt, hlen, hle]

/-- Settles O47: 1024 < 2^11 and 50 < 2^6, so no register is cut by its output's width. -/
theorem statusOutputsAreRegisters : Obligations.StatusOutputsAreRegisters := by
  intro s hpos hcount hlen
  exact ⟨toNat_ofNat_of_lt (by omega), rfl, toNat_ofNat_of_lt (by omega), rfl, toNat_ofNat_of_lt (by omega)⟩

end Sys2Proof.Machine
end

section
/-! PROOFS of the family 40_deframer.md: what FLAG.OPEN, ESC.SET, UNESC, DATA.STORE and OVERFLOW do. Each of them writes
only the deframer's registers, the frame buffer and the event vector, so they share one frame; UNESC and DATA.STORE are
STORE behind it (rule R85), whose effect is said once (`State.store_result`). -/

namespace Sys2Proof.Machine

/-! ### The deframer's writes -/

/-- A state with other deframer registers, frame buffer and event vector has the same reassembler, results and model
fields. -/
theorem State.deframerUpdate_frame (s : State) (m : Memory) (pos : Nat) (esc : Bool) (evt : Half) :
    s.sameReasm { s with fbuf := m, pos := pos, esc := esc, evt := evt } ∧
    s.sameResults { s with fbuf := m, pos := pos, esc := esc, evt := evt } ∧
    s.sameModel { s with fbuf := m, pos := pos, esc := esc, evt := evt } :=
  ⟨⟨rfl, rfl, fun _ _ => rfl, rfl, fun _ => rfl⟩, ⟨rfl, rfl, rfl⟩, rfl, rfl, rfl⟩

/-- A frame buffer with one byte written: that byte at its index, the old ones elsewhere. -/
theorem State.fbufByte_of_write {s t : State} {a : Nat} {v : Byte} (h : t.fbuf = s.fbuf.write a v)
    (he : t.epoch = s.epoch) : t.fbufByte a = v ∧ ∀ i, i ≠ a → t.fbufByte i = s.fbufByte i := by
  simp only [State.fbufByte, h, he, Memory.read_write]
  exact ⟨by simp, fun i hi => by rw [if_neg hi]⟩

/-! ### OVERFLOW and STORE -/

/-- OVERFLOW keeps everything but `pos`, `esc` and its event (rule R86). -/
theorem State.overflowFrame_frame (s : State) :
    s.sameReasm s.overflowFrame ∧ s.sameResults s.overflowFrame ∧ s.sameModel s.overflowFrame :=
  s.deframerUpdate_frame _ _ _ _

theorem State.overflowFrame_sameFbuf (s : State) : s.sameFbuf s.overflowFrame := State.sameFbuf_of_eq rfl rfl

/-- STORE with `esc` clear (rules R85, R86): the byte is stored, or in a full buffer the frame is lost. -/
theorem State.store_result {s : State} (v : Byte) (hesc : s.esc = false) :
    (s.store v).esc = false ∧ s.sameReasm (s.store v) ∧ s.sameResults (s.store v) ∧ s.sameModel (s.store v) ∧
    (s.pos < 1024 → (s.store v).pos = s.pos + 1 ∧ (s.store v).fbufByte s.pos = v ∧
      (∀ i, i ≠ s.pos → (s.store v).fbufByte i = s.fbufByte i) ∧ (s.store v).evt = s.evt) ∧
    (1024 ≤ s.pos → (s.store v).pos = 0 ∧ s.sameFbuf (s.store v) ∧ (s.store v).evt = s.evt ||| 0x0004) := by
  rcases s.store_cases v with ⟨hlt, h⟩ | ⟨hge, h⟩ <;> rw [h]
  · obtain ⟨hreasm, hresults, hmodel⟩ := s.deframerUpdate_frame (s.fbuf.write s.pos v) (s.pos + 1) s.esc s.evt
    obtain ⟨hbyte, hrest⟩ := State.fbufByte_of_write (s := s)
      (t := { s with fbuf := s.fbuf.write s.pos v, pos := s.pos + 1 }) rfl rfl
    exact ⟨hesc, hreasm, hresults, hmodel, fun _ => ⟨rfl, hbyte, hrest, rfl⟩, fun hge => absurd hlt (by omega)⟩
  · obtain ⟨hreasm, hresults, hmodel⟩ := s.overflowFrame_frame
    exact ⟨rfl, hreasm, hresults, hmodel, fun hlt => absurd hlt (by omega),
      fun _ => ⟨rfl, s.overflowFrame_sameFbuf, rfl⟩⟩

/-! ### The obligations -/

/-- Settles O17: STORE of `d` XOR 20 from the state whose `esc` is already cleared. -/
theorem unescResult : Obligations.UnescResult := by
  intro s d _ _
  exact ⟨_, rfl, State.store_result (s := { s with esc := false }) (d ^^^ Config.escXor) rfl⟩

/-- Settles O18: STORE of `d` itself. -/
theorem dataStoreResult : Obligations.DataStoreResult := by
  intro s d hesc _ _
  exact ⟨_, rfl, State.store_result d hesc⟩

/-- Settles O14: the one write is at index 0. -/
theorem flagOpenResult : Obligations.FlagOpenResult := by
  intro s hesc _
  obtain ⟨hbyte, hrest⟩ := State.fbufByte_of_write (s := s)
    (t := { s with fbuf := s.fbuf.write 0 Config.flag, pos := 1 }) rfl rfl
  exact ⟨_, rfl, rfl, hbyte, hrest, hesc, rfl, s.deframerUpdate_frame _ _ _ _⟩

/-- Settles O16: only `esc` is written. -/
theorem escSetResult : Obligations.EscSetResult := by
  intro s _
  exact ⟨_, rfl, rfl, rfl, State.sameFbuf_of_eq rfl rfl, rfl, s.deframerUpdate_frame _ _ _ _⟩

/-- Settles O19: OVERFLOW's own laws, whatever the discarded byte. -/
theorem overflowResult : Obligations.OverflowResult := by
  intro s d _
  exact ⟨s.overflowFrame, rfl, rfl, rfl, rfl, s.overflowFrame_sameFbuf, s.overflowFrame_frame⟩

end Sys2Proof.Machine
end

section
/-! PROOFS of the family 42_router.md: which frames the router drops, which it gives to the reassembler, and what it
reads of them. A valid frame is routed by its bytes from the cursor on alone (`State.route_congr`), and the cursor by
the two bytes after the header (`cursor_eq`). -/

namespace Sys2Proof.Machine

/-! ### The cursor and the tag -/

theorem hasLlc_iff (p : List Byte) : hasLlc p = true ↔ p[8]? = some 0xE6 ∧ p[9]? = some 0xE7 := by
  simp [hasLlc, Config.llcFirst, Config.llcSecond]

theorem cursor_eq (p : List Byte) : cursor p = if p[8]? = some 0xE6 ∧ p[9]? = some 0xE7 then 11 else 8 := by
  simp only [cursor, hasLlc_iff, Config.hdlcHdrLen, Config.llcLen]

theorem cursor_of_not_llc {p : List Byte} (h : ¬ (p[8]? = some 0xE6 ∧ p[9]? = some 0xE7)) : cursor p = 8 := by
  rw [cursor_eq, if_neg h]

theorem le_cursor (p : List Byte) : 8 ≤ cursor p := by
  rw [cursor_eq]; split <;> omega

theorem carriesGbt_iff (p : List Byte) : carriesGbt p = true ↔ p[cursor p]? = some 0xE0 := by
  simp [carriesGbt, Config.gbtTag]

/-- The tag is the first byte of what the router would forward. -/
theorem carriesGbt_eq_head (p : List Byte) : carriesGbt p = ((p.drop (cursor p)).head? == some Config.gbtTag) := by
  rw [carriesGbt, List.head?_drop]

/-- Payloads that agree behind the header, but for the control byte of an LLC header, have the same cursor and the same
bytes from it on. -/
theorem drop_cursor_congr {p q : List Byte} (h : ∀ i, 8 ≤ i → i ≠ 10 → p[i]? = q[i]?)
    (h10 : p[10]? = q[10]? ∨ (p[8]? = some 0xE6 ∧ p[9]? = some 0xE7)) :
    p.drop (cursor p) = q.drop (cursor q) := by
  have hcursor : cursor q = cursor p := by
    rw [cursor_eq, cursor_eq, h 8 (by omega) (by omega), h 9 (by omega) (by omega)]
  have hbytes : ∀ i, cursor p ≤ i → p[i]? = q[i]? := by
    intro i hi
    by_cases hllc : p[8]? = some 0xE6 ∧ p[9]? = some 0xE7
    · rw [cursor_eq, if_pos hllc] at hi
      exact h i (by omega) (by omega)
    · rw [cursor_of_not_llc hllc] at hi
      by_cases hi10 : i = 10
      · exact hi10 ▸ h10.resolve_right hllc
      · exact h i hi hi10
  rw [hcursor]
  apply List.ext_getElem?
  intro i
  rw [List.getElem?_drop, List.getElem?_drop, hbytes _ (by omega)]

/-! ### The router -/

/-- An invalid payload is not looked at (rule R106). -/
theorem State.route_invalid (s : State) (p : List Byte) : s.route p false = s.reasmFullReset := rfl

/-- Without the tag at the cursor a valid payload is dropped (rule R110). -/
theorem State.route_of_not_gbt {p : List Byte} (s : State) (h : p[cursor p]? ≠ some 0xE0) :
    s.route p true = s.signal .nonGbt := by
  rw [State.route, if_pos rfl, if_neg (mt (carriesGbt_iff p).1 h)]

/-- With the tag at the cursor the rest of a valid payload is one block (rule R109). -/
theorem State.route_of_gbt {p : List Byte} (s : State) (h : p[cursor p]? = some 0xE0) :
    s.route p true = s.blockIn (p.drop (cursor p)) := by
  rw [State.route, if_pos rfl, if_pos ((carriesGbt_iff p).2 h)]

/-- The router reads nothing of a valid payload before the cursor but where the cursor is (rule R112). -/
theorem State.route_congr {p q : List Byte} (s : State) (h : p.drop (cursor p) = q.drop (cursor q)) :
    s.route p true = s.route q true := by
  simp only [State.route, carriesGbt_eq_head, h]

/-- A block of fewer than 7 bytes is malformed (rule R117). -/
theorem State.blockIn_of_short {B : List Byte} (s : State) (h : B.length < 7) :
    s.blockIn B = s.signal .blockMalformed := by
  rw [State.blockIn, if_pos (malformed_eq_true.2 (by omega))]

/-! ### The closed frame -/

/-- The validity test in the words of rule R99. -/
theorem State.fcsValid_stored_iff (s : State) : fcsValid s.payload s.storedFcs = true ↔
    u16be (s.fbufByte (s.pos - 2)) (s.fbufByte (s.pos - 1)) = swap16 (fcs s.payload ^^^ 0xFFFF) := by
  rw [fcsValid, beq_iff_eq, State.storedFcs]

theorem exec_flagClose (s : State) :
    exec .flagClose s = .next (s.closeFrame.route s.payload (fcsValid s.payload s.storedFcs)) := rfl

/-- The close of an invalid frame (rule R106). -/
theorem exec_flagClose_invalid {s : State} (h : fcsValid s.payload s.storedFcs = false) :
    exec .flagClose s = .next s.closeFrame.reasmFullReset := by
  rw [exec_flagClose, h, State.route_invalid]

/-- The close of a valid frame without the tag at the cursor (rule R110). -/
theorem exec_flagClose_nonGbt {s : State} (h : fcsValid s.payload s.storedFcs = true)
    (htag : s.payload[cursor s.payload]? ≠ some 0xE0) :
    exec .flagClose s = .next (s.closeFrame.signal .nonGbt) := by
  rw [exec_flagClose, h, State.route_of_not_gbt _ htag]

/-! ### The obligations -/

/-- Settles O30: the close of an invalid frame is the deframer's close, then the full reset. -/
theorem invalidFrameResets : Obligations.InvalidFrameResets := by
  intro s _ _ hfcs
  have hbad : fcsValid s.payload s.storedFcs = false :=
    Bool.eq_false_iff.2 (mt s.fcsValid_stored_iff.1 hfcs)
  refine ⟨_, exec_flagClose_invalid hbad, rfl, rfl, ?_, ?_, rfl,
    State.sameFbuf_of_eq rfl rfl, State.sameSlots_of_eq rfl rfl, State.sameApdu_of_eq rfl rfl rfl⟩
  · simp [hbad, Event.mask, Event.bit, BitVec.or_assoc]
  · simp [hbad]

/-- Settles O31: the close of a valid frame without the tag is the deframer's close, then one more event. -/
theorem nonGbtFrameDropped : Obligations.NonGbtFrameDropped := by
  intro s _ _ hfcs htag
  have hok : fcsValid s.payload s.storedFcs = true := s.fcsValid_stored_iff.2 hfcs
  rw [← cursor_eq] at htag
  refine ⟨_, exec_flagClose_nonGbt hok htag, ?_,
    ⟨rfl, rfl, State.sameSlots_of_eq rfl rfl, State.sameApdu_of_eq rfl rfl rfl⟩, ?_, rfl⟩
  · simp [hok, Event.mask, Event.bit, BitVec.or_assoc]
  · simp [hok]

/-- Settles O34: the cursor and the bytes from it on are the same in both payloads. -/
theorem routerIgnoresHeader : Obligations.RouterIgnoresHeader := by
  intro s p q _ hrest h10
  exact s.route_congr (drop_cursor_congr hrest h10)

/-- Settles O33: at most 8 bytes leave none at the cursor; of 9 bytes with the tag last, the block is the tag alone. -/
theorem shortPayloads : Obligations.ShortPayloads := by
  intro s p
  constructor
  · intro hlen
    have hnone : p[cursor p]? = none := List.getElem?_eq_none (hlen.trans (le_cursor p))
    exact s.route_of_not_gbt (by simp [hnone])
  · intro hlen htag
    have hcursor : cursor p = 8 := cursor_of_not_llc (by simp [htag])
    rw [s.route_of_gbt (by rw [hcursor, htag]), hcursor]
    exact s.blockIn_of_short (by rw [List.length_drop]; omega)

end Sys2Proof.Machine
end

section
/-! PROOFS of the family 43_reassembler.md: malformed blocks, restarts, the full slot list, too large totals and ignored
fields. BLOCK_IN has one equation per branch; a restart is BLOCK.ACCEPT from an empty sequence (`State.startOver`), so
what a stored block does is said once, of BLOCK.ACCEPT. -/

namespace Sys2Proof.Machine

/-! ### The content of a block -/

theorem content_length {B : List Byte} (h : malformed B = false) :
    ((B.drop 7).take (contentLen B)).length = contentLen B := by
  have := malformed_eq_false.1 h
  simp only [List.length_take, List.length_drop]
  omega

theorem content_getD {B : List Byte} {i : Nat} (h : i < contentLen B) :
    ((B.drop 7).take (contentLen B)).getD i 0 = B.getD (7 + i) 0 := by
  simp [List.getD_eq_getElem?_getD, h]

/-! ### BLOCK_IN by its branches (rule R127) -/

/-- What a restart does before it stores block 1 (rules R121, R122): an empty sequence, with both events. -/
def State.startOver (s : State) : State := ((s.signal .seqMismatch).seqReset).signal .seqRestart

@[simp] theorem State.startOver_count (s : State) : s.startOver.count = 0 := rfl
@[simp] theorem State.startOver_evt (s : State) : s.startOver.evt = s.evt ||| 0x00C0 := by
  simp [State.startOver, Event.mask, Event.bit, BitVec.or_assoc]

theorem State.blockIn_of_malformed {B : List Byte} (s : State) (h : malformed B = true) :
    s.blockIn B = s.signal .blockMalformed := by
  rw [State.blockIn, if_pos h]

theorem State.blockIn_of_mismatch {s : State} {B : List Byte} (h : malformed B = false)
    (hn : (blockNumber B).toNat ≠ s.count + 1) (h1 : blockNumber B ≠ 1) :
    s.blockIn B = (s.signal .seqMismatch).seqReset := by
  rw [State.blockIn, h, if_neg Bool.false_ne_true, if_pos hn, State.blockMismatch, if_neg h1]

/-- The restarting block is accepted into the empty sequence. -/
theorem State.blockIn_of_restart {s : State} {B : List Byte} (h : malformed B = false)
    (hn : (blockNumber B).toNat ≠ s.count + 1) (h1 : blockNumber B = 1) :
    s.blockIn B = s.startOver.blockAccept B := by
  rw [State.blockIn, h, if_neg Bool.false_ne_true, if_pos hn, State.blockMismatch, if_pos h1]
  rfl

theorem State.blockIn_of_slotFull {s : State} {B : List Byte} (h : malformed B = false)
    (hn : (blockNumber B).toNat = s.count + 1) (hfull : 50 ≤ s.count) : s.blockIn B = s.blockSlotFull := by
  rw [State.blockIn, h, if_neg Bool.false_ne_true, if_neg (not_not.2 hn), if_pos (Nat.lt_succ_of_le hfull)]

theorem State.blockIn_of_accept {s : State} {B : List Byte} (h : malformed B = false)
    (hn : (blockNumber B).toNat = s.count + 1) (hroom : s.count < 50) : s.blockIn B = s.blockAccept B := by
  rw [State.blockIn, h, if_neg Bool.false_ne_true, if_neg (not_not.2 hn), if_neg (Nat.not_lt.2 hroom)]

/-! ### BLOCK.ACCEPT (rules R120, R124) -/

/-- LAST.CHECK writes no slot. -/
@[simp] theorem State.lastCheck_slot (s : State) (B : List Byte) : (s.lastCheck B).slot = s.slot := by
  rcases s.lastCheck_cases B with ⟨_, h⟩ | ⟨_, _, h⟩ | ⟨_, _, h⟩ <;> rw [h] <;> rfl

/-- An accepted block is stored whole in the next slot, last or not. -/
theorem State.blockAccept_slotByte (s : State) {B : List Byte} {i : Nat} (h : i < B.length) :
    (s.blockAccept B).slotByte (s.count + 1) i = B.getD i 0 := by
  rw [State.blockAccept, ← State.storeBlock_slotByte_own s (s.count + 1) i B h]
  exact State.sameSlots_of_eq (State.lastCheck_slot _ B) (State.lastCheck_sameOutside _ B).epoch _ _

/-- The block list outside the block's own range is unchanged. -/
theorem State.blockAccept_read_outside (s : State) {B : List Byte} {a : Nat}
    (h : a < slotAddr (s.count + 1) 0 ∨ slotAddr (s.count + 1) 0 + B.length ≤ a) :
    (s.blockAccept B).slot.read a = s.slot.read a := by
  rw [State.blockAccept, State.lastCheck_slot, State.storeBlock_slot, Memory.read_writeBytes_outside h]

theorem State.blockAccept_of_not_last (s : State) {B : List Byte} (h : isLast B = false) :
    s.blockAccept B = s.storeBlock (s.count + 1) B := by
  simp [State.blockAccept, State.lastCheck, h]

theorem State.blockAccept_of_tooLarge {s : State} {B : List Byte} (h : malformed B = false) (hlast : isLast B = true)
    (htotal : 1024 < s.slotTotal s.count + contentLen B) :
    s.blockAccept B = (s.storeBlock (s.count + 1) B).apduTooLarge := by
  rw [← (s.storeBlock_slotContents_next s.count B h).2] at htotal
  rw [State.blockAccept, State.lastCheck, if_pos hlast, State.storeBlock_count, if_pos htotal]

theorem State.blockAccept_of_emit {s : State} {B : List Byte} (h : malformed B = false) (hlast : isLast B = true)
    (htotal : s.slotTotal s.count + contentLen B ≤ 1024) :
    s.blockAccept B = (s.storeBlock (s.count + 1) B).emitApdu := by
  rw [← (s.storeBlock_slotContents_next s.count B h).2] at htotal
  rw [State.blockAccept, State.lastCheck, if_pos hlast, State.storeBlock_count, if_neg (Nat.not_lt.2 htotal)]

/-- The APDU buffer after an emission: the emitted bytes, and above them the old ones (rule R126). -/
theorem State.emitApdu_apduByte (s : State) (i : Nat) :
    s.emitApdu.apduByte i =
      if i < (s.slotContents s.count).length then (s.slotContents s.count).getD i 0 else s.apduByte i := by
  simp only [State.apduByte, State.emitApdu_apdu, State.emitApdu_epoch, Memory.read_writeBytes, Nat.zero_le, true_and,
    Nat.zero_add, Nat.sub_zero]
  split
  · next h => simp [h]
  · rfl

/-- What an accepted last block emits: the contents in order, into the APDU buffer from address 0. -/
theorem State.blockAccept_emits {s : State} {B a : List Byte} (h : malformed B = false) (hlast : isLast B = true)
    (htotal : s.slotTotal s.count + contentLen B ≤ 1024)
    (ha : a = s.slotContents s.count ++ (B.drop 7).take (contentLen B)) :
    (s.blockAccept B).apduEvt = some a ∧ (s.blockAccept B).apduLen = a.length ∧
    (∀ i, i < a.length → (s.blockAccept B).apduByte i = a.getD i 0) ∧
    (∀ i, a.length ≤ i → (s.blockAccept B).apduByte i = s.apduByte i) ∧
    (s.blockAccept B).complete = true ∧ (s.blockAccept B).count = 0 ∧ (s.blockAccept B).evt = s.evt ||| 0x0420 := by
  have hstored : (s.storeBlock (s.count + 1) B).slotContents (s.count + 1) = a :=
    (s.storeBlock_slotContents_next s.count B h).1.trans ha.symm
  rw [State.blockAccept_of_emit h hlast htotal]
  simp only [State.emitApdu_apduByte, State.emitApdu_apduLen, State.emitApdu_apduEvt, State.storeBlock_count,
    ← State.slotContents_length, hstored, true_and]
  refine ⟨fun i hi => if_pos hi, fun i hi => if_neg (Nat.not_lt.2 hi), rfl, rfl, ?_⟩
  simp [Event.mask, Event.bit, BitVec.or_assoc]

/-! ### What is kept of the stored blocks -/

/-- The states agree in the sequence, the event vector, the APDU, and the length and content of every stored slot: what
a later emission depends on. -/
structure State.sameKept (s t : State) : Prop where
  count : s.count = t.count
  complete : s.complete = t.complete
  evt : s.evt = t.evt
  apduEvt : s.apduEvt = t.apduEvt
  apduLen : s.apduLen = t.apduLen
  apdu : s.apdu = t.apdu
  slots : ∀ k, 1 ≤ k → k ≤ s.count → s.slotLen k = t.slotLen k ∧ s.slotContent k = t.slotContent k

theorem State.sameKept.refl (s : State) : s.sameKept s := ⟨rfl, rfl, rfl, rfl, rfl, rfl, fun _ _ _ => ⟨rfl, rfl⟩⟩

theorem State.slotContents_congr {s t : State} {n : Nat}
    (h : ∀ k, 1 ≤ k → k ≤ n → s.slotContent k = t.slotContent k) : s.slotContents n = t.slotContents n := by
  induction n with
  | zero => rfl
  | succ n ih =>
    rw [State.slotContents, State.slotContents, ih fun k hk hn => h k hk (by omega), h (n + 1) (by omega) le_rfl]

theorem State.sameKept.slotContents {s t : State} (h : s.sameKept t) :
    s.slotContents s.count = t.slotContents t.count := by
  rw [← h.count]
  exact State.slotContents_congr fun k hk hn => (h.slots k hk hn).2

theorem State.sameKept.slotTotal {s t : State} (h : s.sameKept t) : s.slotTotal s.count = t.slotTotal t.count := by
  rw [← State.slotContents_length, ← State.slotContents_length, h.slotContents]

/-- LAST.CHECK reads no more than the last bit and what is kept. -/
theorem State.sameKept.lastCheck {s t : State} {B C : List Byte} (h : s.sameKept t) (hlast : isLast B = isLast C) :
    (s.lastCheck B).sameKept (t.lastCheck C) := by
  simp only [State.lastCheck, hlast, h.slotTotal]
  split
  · split
    · exact ⟨rfl, h.complete, by simp [h.evt], h.apduEvt, h.apduLen, h.apdu,
        fun k hk h0 => absurd (hk.trans h0) (Nat.not_succ_le_zero 0)⟩
    · exact ⟨rfl, rfl, by simp [h.evt], by simp [h.slotContents], by simp [h.slotTotal],
        by simp [h.apdu, h.slotContents], fun k hk h0 => absurd (hk.trans h0) (Nat.not_succ_le_zero 0)⟩
  · exact h

/-- The blocks are admitted and agree in every field that the reassembler keeps or reads (rule R128). -/
structure sameBlock (B C : List Byte) : Prop where
  admitted : malformed B = false ∧ malformed C = false
  last : isLast B = isLast C
  number : blockNumber B = blockNumber C
  len : contentLen B = contentLen C
  content : (B.drop 7).take (contentLen B) = (C.drop 7).take (contentLen C)

/-- The blocks agree as soon as their last bits and the bytes of the number, the content length and the content do. -/
theorem sameBlock.of_bytes {B C : List Byte} (hB : 7 + contentLen B ≤ B.length) (hC : 7 + contentLen B ≤ C.length)
    (hlast : isLast B = isLast C)
    (hbytes : ∀ i, (i = 2 ∨ i = 3 ∨ 6 ≤ i) → i < 7 + contentLen B → B.getD i 0 = C.getD i 0) : sameBlock B C := by
  have hlen : contentLen B = contentLen C := congrArg BitVec.toNat (hbytes 6 (by omega) (by omega))
  have hmB : malformed B = false := malformed_eq_false.2 hB
  have hmC : malformed C = false := malformed_eq_false.2 (hlen ▸ hC)
  have hnumber : blockNumber B = blockNumber C := by
    rw [blockNumber, blockNumber, hbytes 2 (by omega) (by omega), hbytes 3 (by omega) (by omega)]
  have hcontent : (B.drop 7).take (contentLen B) = (C.drop 7).take (contentLen C) := by
    apply List.ext_getElem
    · rw [content_length hmB, content_length hmC, hlen]
    · intro i hi hi'
      rw [content_length hmB] at hi
      rw [← List.getD_eq_getElem _ 0, ← List.getD_eq_getElem _ 0, content_getD hi, content_getD (hlen ▸ hi)]
      exact hbytes (7 + i) (by omega) (Nat.add_lt_add_left hi 7)
  exact ⟨⟨hmB, hmC⟩, hlast, hnumber, hlen, hcontent⟩

/-- Storing either block in the next slot keeps the same. -/
theorem sameBlock.storeBlock {B C : List Byte} (h : sameBlock B C) (s : State) :
    (s.storeBlock (s.count + 1) B).sameKept (s.storeBlock (s.count + 1) C) := by
  refine ⟨rfl, rfl, rfl, rfl, rfl, rfl, fun k hk hn => ?_⟩
  obtain ⟨hB, hC⟩ := h.admitted
  rcases Nat.lt_or_eq_of_le hn with hlt | rfl
  · obtain ⟨hBc, hBl⟩ := s.storeBlock_slotContent_earlier B hk hlt
    obtain ⟨hCc, hCl⟩ := s.storeBlock_slotContent_earlier C hk hlt
    exact ⟨hBl.trans hCl.symm, hBc.trans hCc.symm⟩
  · simp only [State.storeBlock_count, State.storeBlock_slotLen_own _ _ _ hB, State.storeBlock_slotLen_own _ _ _ hC,
      State.storeBlock_slotContent_own _ _ _ hB, State.storeBlock_slotContent_own _ _ _ hC]
    exact ⟨h.len, h.content⟩

theorem sameBlock.blockAccept {B C : List Byte} (h : sameBlock B C) (s : State) :
    (s.blockAccept B).sameKept (s.blockAccept C) :=
  (h.storeBlock s).lastCheck h.last

/-- Blocks that agree in these fields take the same branch of BLOCK_IN, and it keeps the same. -/
theorem sameBlock.blockIn {B C : List Byte} (h : sameBlock B C) (s : State) :
    (s.blockIn B).sameKept (s.blockIn C) := by
  obtain ⟨hB, hC⟩ := h.admitted
  rcases s.blockIn_cases B with ⟨hm, _⟩ | ⟨_, hn, h1, e⟩ | ⟨_, hn, h1, _⟩ | ⟨_, hn, hfull, e⟩ | ⟨_, hn, hroom, e⟩
  · simp [hB] at hm
  · rw [e, State.blockIn_of_mismatch hC (h.number ▸ hn) (h.number ▸ h1)]
    exact .refl _
  · rw [State.blockIn_of_restart hB hn h1, State.blockIn_of_restart hC (h.number ▸ hn) (h.number ▸ h1)]
    exact h.blockAccept _
  · rw [e, State.blockIn_of_slotFull hC (h.number ▸ hn) hfull]
    exact .refl _
  · rw [e, State.blockIn_of_accept hC (h.number ▸ hn) hroom]
    exact h.blockAccept s

/-! ### The obligations -/

/-- Settles O38: the block is accepted from `startOver`, where nothing is stored, so its content is the whole APDU and
fits. -/
theorem blockOneRestarts : Obligations.BlockOneRestarts := by
  intro s B hadmitted hone hcount
  have hB : malformed B = false := malformed_eq_false.2 hadmitted
  have hnumber : (blockNumber B).toNat ≠ s.count + 1 := by
    rw [blockNumber_eq_one.1 hone]
    omega
  have hin := State.blockIn_of_restart hB hnumber hone
  refine ⟨_, hin, fun i hi => s.startOver.blockAccept_slotByte hi,
    fun a ha => s.startOver.blockAccept_read_outside (.inr ha), hin ▸ (s.blockIn_sameOutside B).sameFront,
    fun hlast => ?_, fun hlast => ?_⟩
  · rw [s.startOver.blockAccept_of_not_last hlast]
    exact ⟨rfl, by simp [Event.mask, Event.bit, BitVec.or_assoc], rfl, State.sameApdu_of_eq rfl rfl rfl, rfl⟩
  · have hfits : s.startOver.slotTotal s.startOver.count + contentLen B ≤ 1024 := by
      have : contentLen B < 256 := (B.getD 6 0).isLt
      simp only [State.startOver_count, State.slotTotal]
      omega
    obtain ⟨hevt, hlen, hbytes, habove, hcomplete, hzero, hevents⟩ :=
      State.blockAccept_emits (a := (B.drop 7).take (contentLen B)) hB hlast hfits rfl
    rw [content_length hB] at hlen hbytes habove
    refine ⟨hzero, ?_, hcomplete, hlen, hevt, fun i hi => (hbytes i hi).trans (content_getD hi), habove⟩
    rw [hevents, State.startOver_evt, BitVec.or_assoc]
    rfl

/-- Settles O39: the sequence is empty afterwards, and only block 1 can start one. -/
theorem slotFullResets : Obligations.SlotFullResets := by
  intro s B hadmitted hcount hnumber
  have hin : s.blockIn B = s.blockSlotFull :=
    State.blockIn_of_slotFull (malformed_eq_false.2 hadmitted) (by rw [hcount]; exact hnumber) hcount.ge
  refine ⟨_, hin, rfl, rfl, rfl, State.sameSlots_of_eq rfl rfl, State.sameApdu_of_eq rfl rfl rfl, rfl,
    hin ▸ (s.blockIn_sameOutside B).sameFront, fun Bs hBs => ?_⟩
  exact (State.blocksIn_other (s := s.blockSlotFull) rfl hBs).2

/-- Settles O40: the block is stored, and LAST.CHECK finds the total with it too large. -/
theorem tooLargeEmitsNothing : Obligations.TooLargeEmitsNothing := by
  intro s B hadmitted hnumber hroom hlast htotal
  have hB : malformed B = false := malformed_eq_false.2 hadmitted
  have hin := State.blockIn_of_accept hB hnumber hroom
  refine ⟨_, hin, ?_, ?_, ?_, fun i hi => s.blockAccept_slotByte hi, fun a ha => s.blockAccept_read_outside ha,
    ?_, ?_, hin ▸ (s.blockIn_sameOutside B).sameFront⟩ <;>
    rw [State.blockAccept_of_tooLarge hB hlast htotal]
  · rfl
  · simp [Event.mask, Event.bit, BitVec.or_assoc]
  · rfl
  · exact State.sameApdu_of_eq rfl rfl rfl
  · rfl

/-- Settles O42: byte for byte the hypotheses give `sameBlock`, and BLOCK_IN keeps the same of such blocks. -/
theorem reassemblerIgnoresFields : Obligations.ReassemblerIgnoresFields := by
  intro s B C hB hC hlast hbytes
  have kept := (sameBlock.of_bytes hB hC hlast hbytes).blockIn s
  exact ⟨kept.count, kept.complete, kept.evt, kept.apduEvt, kept.apduLen, kept.apdu, kept.slots⟩

/-- Settles O35: either form fails the admission check, and only its event is signalled. -/
theorem malformedBlockDropped : Obligations.MalformedBlockDropped := by
  intro s B hshort
  have hlen : B.length < 7 + contentLen B := hshort.elim (fun h => by omega) id
  rw [s.blockIn_of_malformed (malformed_eq_true.2 hlen)]
  exact ⟨rfl, ⟨rfl, rfl, State.sameSlots_of_eq rfl rfl, State.sameApdu_of_eq rfl rfl rfl⟩, rfl,
    ⟨rfl, rfl, State.sameFbuf_of_eq rfl rfl⟩, rfl, rfl, rfl, rfl, rfl⟩

end Sys2Proof.Machine
end

section
/-! PROOFS of the family 44_control.md: IDLE and REASM_RESET. A step that presents an IDLE word is the step's start and
nothing more (`step_of_idle`); REASM_RESET is the reassembler's full reset, which writes none of the buffers. -/

namespace Sys2Proof.Machine

/-! ### IDLE -/

/-- Operation code 0 is IDLE in every deframer state (rule R55). -/
theorem decode_of_opField_zero {w : OpWord} (pos : Nat) (esc : Bool) (h : opField w = 0) :
    decode pos esc w = .idle (dataField w) := if_pos h

theorem exec_idle (d : Byte) (s : State) : exec (.idle d) s = .next s := rfl

/-- With an IDLE word as its only word a step does what every step begins with, and no more (rules R136, R137). -/
theorem step_of_idle {s : State} {w : OpWord} (hpins : pinWords s.nextPins = [w]) (hop : opField w = 0) :
    step s = .next s.beginStep := by
  rw [step, hpins, runWords_one, decode_of_opField_zero _ _ hop, exec_idle]

/-! ### What the start of a step and the full reset keep -/

theorem State.beginStep_sameDeframer (s : State) : s.sameDeframer s.beginStep :=
  ⟨rfl, rfl, State.sameFbuf_of_eq rfl rfl⟩

theorem State.beginStep_sameReasm (s : State) : s.sameReasm s.beginStep :=
  ⟨rfl, rfl, State.sameSlots_of_eq rfl rfl, State.sameApdu_of_eq rfl rfl rfl⟩

/-- The full reset leaves the deframer to itself (rule R140). -/
theorem State.reasmFullReset_sameDeframer (s : State) : s.sameDeframer s.reasmFullReset :=
  ⟨rfl, rfl, State.sameFbuf_of_eq rfl rfl⟩

theorem exec_reasmReset (d : Byte) (s : State) : exec (.reasmReset d) s = .next s.reasmFullReset := rfl

/-! ### The obligations -/

/-- Settles O11: a step's start clears the record and keeps every register and buffer, and IDLE adds nothing to it. -/
theorem idleKeepsEverything : Obligations.IdleKeepsEverything := by
  refine ⟨exec_idle, fun s w hpins hop => ?_⟩
  exact ⟨s.beginStep, step_of_idle hpins hop, rfl, rfl, rfl, rfl, s.beginStep_sameDeframer, s.beginStep_sameReasm⟩

/-- Settles O13: the full reset's own laws, whatever the data byte. -/
theorem reasmResetResult : Obligations.ReasmResetResult := by
  intro d s
  exact ⟨s.reasmFullReset, exec_reasmReset d s, rfl, rfl, rfl, s.reasmFullReset_sameDeframer,
    State.sameSlots_of_eq rfl rfl, State.sameApdu_of_eq rfl rfl rfl, ⟨rfl, rfl, rfl⟩, rfl, rfl, rfl⟩

end Sys2Proof.Machine
end

section
/-! PROOFS of the family 60_exceptions.md: HDLC_OVERFLOW. Of all that a step can do only OVERFLOW sets this bit of the
event vector (`exec_decodeByte_overflow`), so a step that signals it is OVERFLOW on the step's start, after the full
reset where REASM_RESET is presented with the byte (`step_overflow`). -/

namespace Sys2Proof.Machine

/-! ### Which operation sets the bit -/

/-- An event is signalled after bits were added if it was before or is one of them. -/
theorem State.adds.signalled_eq {s t : State} {v : Half} (h : s.adds t v) (e : Event) :
    t.signalled e = (s.signalled e || v.getLsbD e.bit) := by
  rw [State.signalled, h, BitVec.getLsbD_or, State.signalled]

/-- A closed frame signals no overflow, whatever the router and the reassembler do with it (rule R154). -/
theorem State.close_signalled_overflow (s : State) :
    (s.closeFrame.route s.payload (fcsValid s.payload s.storedFcs)).signalled .hdlcOverflow =
      s.signalled .hdlcOverflow := by
  obtain ⟨v, hv, hadds⟩ := s.close_adds
  have hbit : v.getLsbD Event.hdlcOverflow.bit = false := by
    fin_cases hv <;> rfl
  rw [hadds.signalled_eq, hbit, Bool.or_false]

/-- A consumed byte that signals an overflow not signalled before it is OVERFLOW in a full buffer. -/
theorem exec_decodeByte_overflow {s t : State} {d : Byte} (h : exec (decodeByte s.pos s.esc d) s = .next t)
    (hs : s.signalled .hdlcOverflow = false) (ht : t.signalled .hdlcOverflow = true) :
    1024 ≤ s.pos ∧ t = s.overflowFrame := by
  have changed : t.signalled .hdlcOverflow ≠ s.signalled .hdlcOverflow := by simp [hs, ht]
  rcases exec_decodeByte_cases s d with ⟨_, _, _, e⟩ | ⟨_, _, _, e⟩ | ⟨_, _, e⟩ | ⟨_, _, e⟩ | ⟨hfull, e⟩ <;>
    obtain rfl := Host.Outcome.next.inj (e.symm.trans h)
  · exact absurd rfl changed
  · exact absurd s.close_signalled_overflow changed
  · exact absurd rfl changed
  · exact absurd rfl changed
  · exact ⟨hfull, rfl⟩

/-- A step that signals an overflow is OVERFLOW in a full buffer, on the step's start or on its full reset. -/
theorem step_overflow {s t : State} (h : step s = .next t) (ht : t.signalled .hdlcOverflow = true) :
    1024 ≤ s.pos ∧ ((s.nextPins.reasmReset = false ∧ t = s.beginStep.overflowFrame) ∨
      (s.nextPins.reasmReset = true ∧ t = s.beginStep.reasmFullReset.overflowFrame)) := by
  rcases step_cases h with ⟨_, rfl⟩ | ⟨_, b, hb, hbyte⟩
  · exact absurd ht (by simp [State.signalled])
  have silent : b.signalled .hdlcOverflow = false := by
    rcases hb with ⟨rfl, _⟩ | ⟨rfl, _⟩ <;> simp [State.signalled, Event.mask, Event.bit]
  rcases hbyte with rfl | ⟨_, hexec⟩
  · exact absurd ht (by simp [silent])
  · obtain ⟨hfull, rfl⟩ := exec_decodeByte_overflow hexec silent ht
    rcases hb with ⟨rfl, hr⟩ | ⟨rfl, hr⟩
    · exact ⟨hfull, .inl ⟨hr, rfl⟩⟩
    · exact ⟨hfull, .inr ⟨hr, rfl⟩⟩

/-! ### The obligation -/

/-- Settles O25: the step is OVERFLOW, on a start with an empty record or on its full reset, which adds REASM_RESET_DONE
alone to that record. -/
theorem overflowEventAlone : Obligations.OverflowEventAlone := by
  intro s t h ht
  obtain ⟨hfull, ⟨_, rfl⟩ | ⟨hr, rfl⟩⟩ := step_overflow h ht
  · exact ⟨hfull, rfl, rfl, rfl, rfl, fun _ =>
      ⟨by simp [Event.mask, Event.bit], rfl, rfl, State.sameSlots_of_eq rfl rfl, State.sameApdu_of_eq rfl rfl rfl⟩⟩
  · exact ⟨hfull, rfl, rfl, rfl, rfl, fun hnot => absurd hr (by simp [hnot])⟩

end Sys2Proof.Machine
end

section
/-! PROOFS of the encoding (30_encoding.md): decoding and encoding are inverse to each other. The dispatch of `BYTE`
has one equation per row (`decodeByte_flagOpen` to `decodeByte_overflow`), and every word is one of four operation codes
with its data byte (`opWord_cases`). -/

namespace Sys2Proof.Machine

/-! ### The dispatch of a byte by its rows (rule R77) -/

theorem decodeByte_flagOpen {pos : Nat} (h : pos ≤ 1) : decodeByte pos false Config.flag = .flagOpen := by
  simp [decodeByte, h]

theorem decodeByte_flagHdr {pos : Nat} (h : 2 ≤ pos ∧ pos ≤ 8) : decodeByte pos false Config.flag = .flagHdr := by
  obtain ⟨h2, h8⟩ := h
  simp [decodeByte, show ¬ pos ≤ 1 by omega, show pos < 9 by omega]

theorem decodeByte_flagClose {pos : Nat} (h : 9 ≤ pos) : decodeByte pos false Config.flag = .flagClose := by
  simp [decodeByte, show ¬ pos ≤ 1 by omega, show ¬ pos < 9 by omega]

theorem decodeByte_escSet {pos : Nat} (esc : Bool) (h : 9 ≤ pos) : decodeByte pos esc Config.escape = .escSet := by
  simp [decodeByte, h, Config.flag, Config.escape]

theorem decodeByte_escHdr {pos : Nat} (h : pos ≤ 8) : decodeByte pos false Config.escape = .escHdr := by
  simp [decodeByte, show ¬ 9 ≤ pos by omega, Config.flag, Config.escape]

theorem decodeByte_unesc {pos : Nat} {d : Byte} (h : ¬ (d = Config.escape ∧ 9 ≤ pos)) :
    decodeByte pos true d = .unesc d := by
  have h' : ¬ (d = Config.escape ∧ 1 + Config.hdlcHdrLen ≤ pos) := h
  rw [decodeByte, if_neg (by simp), if_neg h', if_pos rfl]

theorem decodeByte_dataStore {pos : Nat} {d : Byte} (hf : d ≠ Config.flag) (hx : d ≠ Config.escape) (h : pos ≤ 1023) :
    decodeByte pos false d = .dataStore d := by
  simp [decodeByte, hf, hx, show ¬ 1024 ≤ pos by omega]

theorem decodeByte_overflow {pos : Nat} {d : Byte} (hf : d ≠ Config.flag) (hx : d ≠ Config.escape) (h : 1024 ≤ pos) :
    decodeByte pos false d = .overflow d := by
  simp [decodeByte, hf, hx, h]

/-- The dispatch takes a row whose operand check and whose condition hold. -/
theorem decodeByte_wf_selected (pos : Nat) (esc : Bool) (d : Byte) :
    (decodeByte pos esc d).wf = true ∧ (decodeByte pos esc d).selected pos esc = true := by
  cases esc
  · by_cases hf : d = Config.flag
    · subst hf
      obtain h | h | h : pos ≤ 1 ∨ (2 ≤ pos ∧ pos ≤ 8) ∨ 9 ≤ pos := by omega
      · simp [decodeByte_flagOpen h, Instr.wf, Instr.selected, h]
      · simp [decodeByte_flagHdr h, Instr.wf, Instr.selected, h]
      · simp [decodeByte_flagClose h, Instr.wf, Instr.selected, h]
    by_cases hx : d = Config.escape
    · subst hx
      rcases Nat.lt_or_ge 8 pos with h | h
      · simp [decodeByte_escSet false h, Instr.wf, Instr.selected, Nat.succ_le_of_lt h]
      · simp [decodeByte_escHdr h, Instr.wf, Instr.selected, h]
    rcases Nat.lt_or_ge 1023 pos with h | h
    · simp [decodeByte_overflow hf hx h, Instr.wf, Instr.selected, hf, hx, Nat.succ_le_of_lt h]
    · simp [decodeByte_dataStore hf hx h, Instr.wf, Instr.selected, hf, hx, h]
  · by_cases hx : d = Config.escape ∧ 9 ≤ pos
    · obtain ⟨rfl, h⟩ := hx
      simp [decodeByte_escSet true h, Instr.wf, Instr.selected, h]
    · rcases not_and_or.1 hx with h | h <;> simp_all [decodeByte_unesc hx, Instr.wf, Instr.selected]

/-- The word of the row that the dispatch takes is the byte's own. -/
theorem encode_decodeByte (pos : Nat) (esc : Bool) (d : Byte) : encode (decodeByte pos esc d) = opWord 1 d := by
  unfold decodeByte
  split
  next h =>
    rw [h.1]
    split
    · rfl
    split <;> rfl
  split
  next h => rw [h.1]; rfl
  split
  · rfl
  split
  next h => rw [h]; rfl
  split <;> rfl

/-! ### Words by their operation code (rules R54, R55) -/

/-- A word is one of the four operation codes with its data byte. -/
theorem opWord_cases (w : OpWord) : ∃ d, w = opWord 0 d ∨ w = opWord 1 d ∨ w = opWord 2 d ∨ w = opWord 3 d := by
  refine ⟨dataField w, ?_⟩
  have hop : ∀ op : BitVec 2, op = 0 ∨ op = 1 ∨ op = 2 ∨ op = 3 := by decide
  rw [← opWord_fields w, dataField_opWord]
  rcases hop (opField w) with h | h | h | h <;> simp [h]

/-! ### The obligations -/

/-- Settles O2: each row's word goes to its operation code, and behind code 01 the row's condition fixes the dispatch. -/
theorem decodeOfEncode : Obligations.DecodeOfEncode := by
  intro i pos esc hwf hsel
  have hbyte : ∀ d, decode pos esc (opWord 1 d) = decodeByte pos esc d := fun d => (decode_opWord pos esc d).2.1
  cases i with
  | idle d => exact (decode_opWord pos esc d).1
  | reasmReset d => exact (decode_opWord pos esc d).2.2.1
  | reset d => exact (decode_opWord pos esc d).2.2.2
  | flagOpen =>
    obtain ⟨rfl, h⟩ : esc = false ∧ pos ≤ 1 := by simpa [Instr.selected] using hsel
    exact (hbyte _).trans (decodeByte_flagOpen h)
  | flagHdr =>
    obtain ⟨rfl, h⟩ : esc = false ∧ 2 ≤ pos ∧ pos ≤ 8 := by simpa [Instr.selected] using hsel
    exact (hbyte _).trans (decodeByte_flagHdr h)
  | flagClose =>
    obtain ⟨rfl, h⟩ : esc = false ∧ 9 ≤ pos := by simpa [Instr.selected] using hsel
    exact (hbyte _).trans (decodeByte_flagClose h)
  | escSet =>
    have h : 9 ≤ pos := by simpa [Instr.selected] using hsel
    exact (hbyte _).trans (decodeByte_escSet esc h)
  | escHdr =>
    obtain ⟨rfl, h⟩ : esc = false ∧ pos ≤ 8 := by simpa [Instr.selected] using hsel
    exact (hbyte _).trans (decodeByte_escHdr h)
  | unesc d =>
    obtain ⟨rfl, h⟩ : esc = true ∧ (d ≠ Config.escape ∨ pos < 9) := by simpa [Instr.selected] using hsel
    exact (hbyte _).trans (decodeByte_unesc fun hd => h.elim (absurd hd.1) (Nat.not_lt.2 hd.2))
  | dataStore d =>
    obtain ⟨rfl, h⟩ : esc = false ∧ pos ≤ 1023 := by simpa [Instr.selected] using hsel
    obtain ⟨hf, hx⟩ : d ≠ Config.flag ∧ d ≠ Config.escape := by simpa [Instr.wf] using hwf
    exact (hbyte _).trans (decodeByte_dataStore hf hx h)
  | overflow d =>
    obtain ⟨rfl, h⟩ : esc = false ∧ 1024 ≤ pos := by simpa [Instr.selected] using hsel
    obtain ⟨hf, hx⟩ : d ≠ Config.flag ∧ d ≠ Config.escape := by simpa [Instr.wf] using hwf
    exact (hbyte _).trans (decodeByte_overflow hf hx h)

/-- Settles O3: the codes 00, 10 and 11 carry their data byte, and the dispatch of a byte keeps it. -/
theorem encodeOfDecode : Obligations.EncodeOfDecode := by
  intro pos esc w
  obtain ⟨d, rfl | rfl | rfl | rfl⟩ := opWord_cases w
  · rw [(decode_opWord pos esc d).1]; rfl
  · rw [(decode_opWord pos esc d).2.1, encode_decodeByte]
  · rw [(decode_opWord pos esc d).2.2.1]; rfl
  · rw [(decode_opWord pos esc d).2.2.2]; rfl

/-- Settles O4: only the dispatch of a byte has a condition to meet. -/
theorem decodedRowIsSelected : Obligations.DecodedRowIsSelected := by
  intro pos esc w
  obtain ⟨d, rfl | rfl | rfl | rfl⟩ := opWord_cases w
  · rw [(decode_opWord pos esc d).1]; exact ⟨rfl, rfl⟩
  · rw [(decode_opWord pos esc d).2.1]; exact decodeByte_wf_selected pos esc d
  · rw [(decode_opWord pos esc d).2.2.1]; exact ⟨rfl, rfl⟩
  · rw [(decode_opWord pos esc d).2.2.2]; exact ⟨rfl, rfl⟩

/-- Settles O1: the sixteen words, decoded one by one. -/
theorem decodedTableWords : Obligations.DecodedTableWords := by
  unfold Obligations.DecodedTableWords
  decide

/-- Settles O5: the range check of `decodeNat` is the whole rejection, and the three meanings do not name the data byte. -/
theorem operationWordsLegalDataIgnored : Obligations.OperationWordsLegalDataIgnored := by
  refine ⟨fun pos esc w => ⟨fun h => ?_, fun h => ?_⟩, fun s d e => ⟨rfl, rfl, rfl⟩⟩
  · exact if_neg (Nat.not_lt.2 h)
  · exact if_pos h

end Sys2Proof.Machine
end

section
/-! PROOFS of the step and of reset (44_control.md, 10_state.md section 6, 60_exceptions.md section 4): what the pins
present, the combined REASM_RESET and byte, RESET and the state after it, and the event vectors of a step, which follow
from what one byte adds to a vector (`exec_decodeByte_adds`). -/

namespace Sys2Proof.Machine

/-! ### The pins of a word (rule R56) -/

/-- The pins that present a word present it alone. -/
theorem pinWords_wordPins (w : OpWord) : pinWords (wordPins w) = [w] := by
  obtain ⟨d, rfl | rfl | rfl | rfl⟩ := opWord_cases w <;> simp [pinWords, wordPins]

/-- The pins of the coming step are the first entry of the input list. -/
theorem State.nextPins_of_inputs {s : State} {p : Pins} {rest : List Pins} (h : s.inputs = p :: rest) :
    s.nextPins = p := by
  rw [State.nextPins, h]; rfl

/-- With REASM_RESET and a byte presented, the byte runs on the state that the full reset leaves (rule R142). -/
theorem step_of_reset_and_byte {s : State} {d : Byte} (h : s.nextPins = ⟨false, true, true, d⟩) :
    step s = exec (decode s.pos s.esc (opWord 1 d)) s.beginStep.reasmFullReset := by
  rw [step_eq, h, (decode_opWord _ _ _).2.1]; rfl

theorem step_of_rst {s : State} (h : s.nextPins.rst = true) : step s = .next s.beginStep.resetBlock := by
  rw [step_eq, if_pos h]

/-- Every step completes: no word that the pins present is refused (rule R149). -/
theorem runWords_total (ws : List OpWord) (s : State) : ∃ t, runWords ws s = .next t := by
  induction ws generalizing s with
  | nil => exact ⟨s, rfl⟩
  | cons w ws ih =>
    obtain ⟨u, hu⟩ := exec_total (decode s.pos s.esc w) s
    obtain ⟨t, ht⟩ := ih u
    exact ⟨t, by rw [runWords, hu]; exact ht⟩

/-- What a consumed byte adds to the event vector. -/
theorem exec_decodeByte_adds {s t : State} {d : Byte} (h : exec (decodeByte s.pos s.esc d) s = .next t) :
    ∃ v, (v = 0 ∨ v ∈ eventTable) ∧ s.adds t v := by
  have silent : ∀ u : State, u.evt = s.evt → s.adds u 0 := fun u hu => by simp [State.adds, hu]
  rcases exec_decodeByte_cases s d with ⟨_, _, _, e⟩ | ⟨_, _, _, e⟩ | ⟨_, _, e⟩ | ⟨_, _, e⟩ | ⟨_, e⟩ <;>
    obtain rfl := Host.Outcome.next.inj (e.symm.trans h)
  · exact ⟨0, .inl rfl, silent _ rfl⟩
  · obtain ⟨v, hv, hadds⟩ := s.close_adds
    exact ⟨v, .inr (by clear hadds; fin_cases hv <;> decide), hadds⟩
  · exact ⟨0, .inl rfl, silent _ rfl⟩
  · exact ⟨0, .inl rfl, silent _ rfl⟩
  · exact ⟨0x0004, .inr (by decide), rfl⟩

/-! ### The obligations -/

/-- Settles O56: a step's vector is what its byte adds to an empty one, or to REASM_RESET_DONE alone where the full reset
came first. -/
theorem onlyTheseEventVectors : Obligations.OnlyTheseEventVectors := by
  intro s t h
  rcases step_cases h with ⟨_, rfl⟩ | ⟨_, b, ⟨rfl, _⟩ | ⟨rfl, hreset⟩, rfl | ⟨hvalid, hbyte⟩⟩
  · exact .inl rfl
  · exact .inl rfl
  · obtain ⟨v, hv, hadds⟩ := exec_decodeByte_adds hbyte
    obtain rfl : t.evt = v := by simpa [State.adds] using hadds
    exact hv.imp_right .inl
  · exact .inr (.inl (by simp [eventTable, Event.mask, Event.bit]))
  · obtain ⟨v, hv, hadds⟩ := exec_decodeByte_adds hbyte
    have hevt : t.evt = v ||| 0x0800 := by
      rw [hadds, BitVec.or_comm]; simp [Event.mask, Event.bit]
    rcases hv with rfl | hv
    · exact .inr (.inl (by rw [hevt]; decide))
    · exact .inr (.inr ⟨hreset, hvalid, v, hv, hevt⟩)

/-- Settles O9: by induction over the words of the step. -/
theorem everyStepCompletes : Obligations.EveryStepCompletes :=
  ⟨fun _ => runWords_total _ _, exec_total⟩

/-- Settles O6: one word is one call of `exec` on the step's start, and the pins of a word present that word. -/
theorem stepRunsDecodedInstruction : Obligations.StepRunsDecodedInstruction := by
  intro s
  refine ⟨fun w hw => ?_, fun hnil => ?_, fun w rest hin => ?_⟩
  · rw [step, hw, runWords_one]
    simp only [State.beginStep, consumesByte, Bool.and_eq_true, Bool.not_eq_true']
  · rw [State.nextPins, hnil]; rfl
  · rw [State.nextPins_of_inputs hin, pinWords_wordPins]

/-- Settles O7: the byte runs on the full reset, and bits are only added to its vector. -/
theorem combinedResetThenByte : Obligations.CombinedResetThenByte := by
  intro s d rest hin
  have hstep := step_of_reset_and_byte (State.nextPins_of_inputs hin)
  obtain ⟨t, ht⟩ := exec_total (decode s.pos s.esc (opWord 1 d)) s.beginStep.reasmFullReset
  refine ⟨s.beginStep.reasmFullReset, rfl, rfl, rfl, ?_, rfl, rfl, hstep, t, hstep.trans ht, ?_⟩
  · simp [Event.mask, Event.bit]
  · rw [(decode_opWord _ _ _).2.1] at ht
    obtain ⟨v, -, hadds⟩ := exec_decodeByte_adds (s := s.beginStep.reasmFullReset) ht
    exact hadds.signalled (State.signalled_signal _ _)

/-- Settles O8: the step is RESET on the step's start. -/
theorem rstOverridesOtherPins : Obligations.RstOverridesOtherPins := by
  intro s a v d rest hin
  refine ⟨_, step_of_rst (by rw [State.nextPins_of_inputs hin]), rfl, rfl, rfl, rfl, rfl, rfl, rfl, rfl, ?_⟩
  simp [hin]

/-- Settles O10: the launch state, field by field. -/
theorem resetStateRegisters : Obligations.ResetStateRegisters := ⟨rfl, rfl, rfl, rfl, rfl, rfl, rfl, rfl⟩

/-- Settles O12: after RESET no byte is listed, so every read is a free value of the new draw. -/
theorem resetClearsRegisters : Obligations.ResetClearsRegisters := by
  intro d s
  exact ⟨s.resetBlock, rfl, rfl, rfl, rfl, rfl, rfl, rfl, rfl, rfl, rfl, fun _ => rfl, fun _ _ => rfl, fun _ => rfl⟩

/-- Settles O51: the registers are 0 and the buffers and outputs empty, so every clause is about no byte. -/
theorem resetMeetsInvariants : Obligations.ResetMeetsInvariants := by
  obtain ⟨hfbuf, hslot, hapdu⟩ := State.reset_memory_wf
  refine ⟨⟨Nat.zero_le _, nofun, nofun⟩, ⟨Nat.zero_le _, fun k h1 h0 => ?_⟩, ⟨hfbuf, hslot, hapdu⟩,
    ⟨Nat.zero_le _, nofun, nofun, nofun, nofun⟩⟩
  exact absurd (h1.trans h0) (Nat.not_succ_le_zero 0)

end Sys2Proof.Machine
end

section
/-! PROOFS of the FCS (41_fcs.md): the table form is the bit-serial one, the residue, and the wire order. Shifting a
register with a byte XORed in is the bit-serial update, bit by bit (`fcsShifts_xor_eq_fcsBits`). -/

namespace Sys2Proof.Machine

/-! ### The bit-serial form -/

/-- The last of the shifts, taken apart. -/
theorem fcsShifts_succ (n : Nat) (c : Half) : fcsShifts (n + 1) c = fcsShift (fcsShifts n c) := by
  induction n generalizing c with
  | zero => rfl
  | succ n ih => exact ih (fcsShift c)

/-- One shift of a register with data XORed in takes the data's lowest bit as the bit-serial form does, and leaves the
data's other bits, shifted. -/
theorem fcsShift_xor_data (f x : Half) : fcsShift (f ^^^ x) = fcsBit f (x.getLsbD 0) ^^^ x >>> 1 := by
  simp only [fcsShift, fcsBit, BitVec.getLsbD_xor, BitVec.ushiftRight_xor_distrib]
  split <;> ac_rfl

/-- After `n` shifts the lowest `n` data bits are taken bit-serially, and the others are still to come. -/
theorem fcsShifts_xor_eq_fcsBits (n : Nat) (f x : Half) :
    fcsShifts n (f ^^^ x) = (List.range n).foldl (fun f k => fcsBit f (x.getLsbD k)) f ^^^ x >>> n := by
  induction n with
  | zero => simp [fcsShifts]
  | succ n ih =>
    rw [fcsShifts_succ, ih, fcsShift_xor_data, List.range_succ, List.foldl_append, BitVec.getLsbD_ushiftRight,
      ← BitVec.shiftRight_add]
    rfl

/-! ### The sender's two bytes (rule R100) -/

/-- The register update by the register's low byte and the data byte. -/
theorem fcsStep_eq (f : Half) (b : Byte) : fcsStep f b = f >>> 8 ^^^ fcsTab (f.extractLsb' 0 8 ^^^ b) := by
  have hlow : (f ^^^ b.setWidth 16).extractLsb' 0 8 = f.extractLsb' 0 8 ^^^ b := by
    apply BitVec.eq_of_getLsbD_eq
    intro i hi
    simp [hi, show i < 16 by omega]
  rw [fcsStep, hlow]

theorem swap16_eq (v : Half) : swap16 v = u16be (v.extractLsb' 0 8) (v.extractLsb' 8 8) := rfl

@[simp] theorem u16be_high (a b : Byte) : (u16be a b).extractLsb' 8 8 = a := BitVec.extractLsb'_append_eq_left
@[simp] theorem u16be_low (a b : Byte) : (u16be a b).extractLsb' 0 8 = b := BitVec.extractLsb'_append_eq_right

theorem u16be_inj {a b c d : Byte} : u16be a b = u16be c d ↔ a = c ∧ b = d := by
  refine ⟨fun h => ⟨?_, ?_⟩, fun ⟨ha, hb⟩ => by rw [ha, hb]⟩
  · simpa using congrArg (BitVec.extractLsb' 8 8) h
  · simpa using congrArg (BitVec.extractLsb' 0 8) h

/-- A stored FCS of two given bytes is valid exactly if they are the sender's. -/
theorem fcsValid_u16be_iff (p : List Byte) (b0 b1 : Byte) :
    fcsValid p (u16be b0 b1) = true ↔
      b0 = (fcs p ^^^ 0xFFFF).extractLsb' 0 8 ∧ b1 = (fcs p ^^^ 0xFFFF).extractLsb' 8 8 := by
  rw [fcsValid, beq_iff_eq, swap16_eq, u16be_inj]

/-- The low byte of the complement meets the register's low byte in FF. -/
theorem low_xor_complement (f : Half) : f.extractLsb' 0 8 ^^^ (f ^^^ 0xFFFF).extractLsb' 0 8 = 0xFF := by
  rw [BitVec.extractLsb'_xor, ← BitVec.xor_assoc, BitVec.xor_self]; rfl

/-- The register after its own complement, low byte first, whatever it was. -/
theorem fcsFrom_complement (f : Half) :
    fcsFrom f [(f ^^^ 0xFFFF).extractLsb' 0 8, (f ^^^ 0xFFFF).extractLsb' 8 8] = 0xF0B8 := by
  have first : fcsStep f ((f ^^^ 0xFFFF).extractLsb' 0 8) = f >>> 8 ^^^ 0x0F78 := by
    rw [fcsStep_eq, low_xor_complement]; rfl
  have second : ∀ g : Byte, fcsStep (g.setWidth 16 ^^^ 0x0F78) (g ^^^ 0xFF) = 0xF0B8 := by decide
  have high : (f ^^^ 0xFFFF).extractLsb' 8 8 = f.extractLsb' 8 8 ^^^ 0xFF := by
    rw [BitVec.extractLsb'_xor]; rfl
  rw [fcsFrom, fcsFrom, first, half_ushiftRight_8, high, second]; rfl

/-! ### The obligations -/

/-- Settles O27: eight shifts take all eight bits of the byte, and leave none to come. -/
theorem fcsStepIsBitSerial : Obligations.FcsStepIsBitSerial := by
  intro f b
  have hnone : b.setWidth 16 >>> 8 = 0#16 := by
    apply BitVec.eq_of_getLsbD_eq
    intro i hi
    simp
  have hbits : ∀ k ∈ List.range 8, (b.setWidth 16).getLsbD k = b.getLsbD k := by
    intro k hk
    rw [List.mem_range] at hk
    simp [show k < 16 by omega]
  rw [fcsStep_eq_shifts, fcsShifts_xor_eq_fcsBits, hnone, BitVec.xor_zero, fcsBits]
  exact List.foldl_ext _ _ _ fun g k hk => by rw [hbits k hk]

/-- Settles O28: the register after the payload meets its own complement. -/
theorem fcsResidue : Obligations.FcsResidue := by
  intro p
  rw [fcs, fcsFrom_append]
  exact fcsFrom_complement _

/-- Settles O29: the swapped complement is the complement's low byte, then its high byte. -/
theorem fcsWireOrder : Obligations.FcsWireOrder := fcsValid_u16be_iff

/-- Settles O26: the eight values, computed. -/
theorem fcsWorkedValues : Obligations.FcsWorkedValues := by
  unfold Obligations.FcsWorkedValues
  decide

end Sys2Proof.Machine
end

section
/-! PROOFS of sequences of blocks (43_reassembler.md): a block in sequence either is appended to the stored contents
(`State.blockIn_appends`) or, as the last, emits them with its own (`State.blockIn_emits`), so a transfer's contents
follow by induction over its blocks. -/

namespace Sys2Proof.Machine

/-- The contents of blocks, in order (rule R126). -/
def blockContents (Bs : List (List Byte)) : List Byte := (Bs.map fun B => (B.drop 7).take (contentLen B)).flatten

@[simp] theorem blockContents_cons (B : List Byte) (Bs : List (List Byte)) :
    blockContents (B :: Bs) = (B.drop 7).take (contentLen B) ++ blockContents Bs := by
  simp [blockContents]

/-- The contents of admitted blocks have the length that the blocks state. -/
theorem blockContents_length {Bs : List (List Byte)} (h : ∀ B ∈ Bs, malformed B = false) :
    (blockContents Bs).length = (Bs.map contentLen).sum := by
  induction Bs with
  | nil => rfl
  | cons B Bs ih =>
    rw [blockContents_cons, List.length_append, content_length (h B (by simp)), ih fun C hC => h C (by simp [hC])]
    simp

/-! ### One block in sequence -/

/-- A block in sequence that is not the last appends its content to what is stored. -/
theorem State.blockIn_appends {s : State} {B : List Byte} (h : malformed B = false)
    (hn : (blockNumber B).toNat = s.count + 1) (hroom : s.count < 50) (hlast : isLast B = false) :
    (s.blockIn B).count = s.count + 1 ∧ (s.blockIn B).apduEvt = s.apduEvt ∧
    (s.blockIn B).complete = s.complete ∧
    (s.blockIn B).slotContents (s.count + 1) = s.slotContents s.count ++ (B.drop 7).take (contentLen B) := by
  rw [State.blockIn_of_accept h hn hroom, s.blockAccept_of_not_last hlast]
  exact ⟨rfl, rfl, rfl, (s.storeBlock_slotContents_next s.count B h).1⟩

/-- The last block in sequence emits what is stored and its own content. -/
theorem State.blockIn_emits {s : State} {B a : List Byte} (h : malformed B = false)
    (hn : (blockNumber B).toNat = s.count + 1) (hroom : s.count < 50) (hlast : isLast B = true)
    (ha : a = s.slotContents s.count ++ (B.drop 7).take (contentLen B)) (htotal : a.length ≤ 1024) :
    (s.blockIn B).apduEvt = some a ∧ (s.blockIn B).apduLen = a.length ∧
    (∀ i, i < a.length → (s.blockIn B).apduByte i = a.getD i 0) ∧
    (∀ i, a.length ≤ i → (s.blockIn B).apduByte i = s.apduByte i) ∧
    (s.blockIn B).complete = true ∧ (s.blockIn B).count = 0 ∧ (s.blockIn B).evt = s.evt ||| 0x0420 := by
  rw [State.blockIn_of_accept h hn hroom]
  refine State.blockAccept_emits h hlast ?_ ha
  rwa [ha, List.length_append, content_length h, State.slotContents_length] at htotal

/-- Blocks in sequence, none of them the last, append their contents in order. -/
theorem State.blocksIn_append {s : State} {Bs : List (List Byte)} (hroom : s.count + Bs.length ≤ 50)
    (h : ∀ i C, Bs[i]? = some C →
      malformed C = false ∧ (blockNumber C).toNat = s.count + i + 1 ∧ isLast C = false) :
    (Bs.foldl State.blockIn s).count = s.count + Bs.length ∧ (Bs.foldl State.blockIn s).apduEvt = s.apduEvt ∧
    (Bs.foldl State.blockIn s).complete = s.complete ∧
    (Bs.foldl State.blockIn s).slotContents (s.count + Bs.length) = s.slotContents s.count ++ blockContents Bs := by
  induction Bs generalizing s with
  | nil => exact ⟨rfl, rfl, rfl, by simp [blockContents]⟩
  | cons B Bs ih =>
    rw [List.length_cons] at hroom
    obtain ⟨hB, hn, hlast⟩ := h 0 B rfl
    obtain ⟨hcount, hevt, hcomplete, hcontents⟩ := State.blockIn_appends hB hn (by omega) hlast
    obtain ⟨ihcount, ihevt, ihcomplete, ihcontents⟩ := ih (s := s.blockIn B) (by omega) fun i C hC => by
      obtain ⟨hC, hnC, hlastC⟩ := h (i + 1) C hC
      exact ⟨hC, by omega, hlastC⟩
    have hlen : s.count + (B :: Bs).length = s.count + 1 + Bs.length := by rw [List.length_cons]; omega
    rw [hcount] at ihcount ihcontents
    rw [List.foldl_cons, hlen, blockContents_cons]
    exact ⟨ihcount, ihevt.trans hevt, ihcomplete.trans hcomplete,
      by rw [ihcontents, hcontents, List.append_assoc]⟩

/-! ### The obligations -/

/-- Settles O43: the blocks before the last append their contents, and the last one emits them all. -/
theorem blocksReassemble : Obligations.BlocksReassemble := by
  intro s Bs B hcount hroom hBs htotal
  have hbefore : ∀ i C, Bs[i]? = some C →
      malformed C = false ∧ (blockNumber C).toNat = s.count + i + 1 ∧ isLast C = false := by
    intro i C hC
    have hi : i < Bs.length := (List.getElem?_eq_some_iff.1 hC).1
    obtain ⟨hm, hn, hlast⟩ := hBs i C (by rw [List.getElem?_append_left hi, hC])
    exact ⟨hm, by omega, by rw [hlast]; simp; omega⟩
  obtain ⟨hmB, hnB, hlastB⟩ := hBs Bs.length B (by simp)
  obtain ⟨tcount, tevt, tcomplete, tcontents⟩ := State.blocksIn_append (s := s) (by omega) hbefore
  have hall : blockContents (Bs ++ [B]) = blockContents Bs ++ (B.drop 7).take (contentLen B) := by
    simp [blockContents]
  have hlen : (blockContents (Bs ++ [B])).length = ((Bs ++ [B]).map contentLen).sum := by
    refine blockContents_length fun C hC => ?_
    obtain ⟨i, hi⟩ := List.mem_iff_getElem?.1 hC
    exact (hBs i C hi).1
  rw [hcount, Nat.zero_add] at tcount tcontents
  have emits := State.blockIn_emits (s := Bs.foldl State.blockIn s) (a := blockContents (Bs ++ [B])) hmB
    (by omega) (by omega) (by simpa using hlastB) (by rw [tcount, tcontents, hall]; rfl) (by omega)
  obtain ⟨eevt, elen, -, -, ecomplete, ecount, -⟩ := emits
  rw [List.foldl_append]
  exact ⟨tevt, tcomplete, tcount, eevt, ecomplete, ecount, elen.trans hlen⟩

/-- Settles O36: the block is stored in the next slot, and LAST.CHECK finds nothing to do. -/
theorem blockInSequenceStored : Obligations.BlockInSequenceStored := by
  intro s B hadmitted hnumber hroom hlast
  have hin := State.blockIn_of_accept (malformed_eq_false.2 hadmitted) hnumber hroom
  refine ⟨_, hin, ?_, ?_, fun i hi => s.blockAccept_slotByte hi, fun a ha => s.blockAccept_read_outside ha,
    ?_, ?_, ?_, hin ▸ (s.blockIn_sameOutside B).sameFront⟩ <;>
    rw [s.blockAccept_of_not_last hlast]
  · rfl
  · rfl
  · rfl
  · exact State.sameApdu_of_eq rfl rfl rfl
  · rfl

/-- Settles O37: the sequence is reset and the block is not looked at further. -/
theorem mismatchedBlockDropped : Obligations.MismatchedBlockDropped := by
  intro s B hadmitted hnumber hone
  have hin := State.blockIn_of_mismatch (malformed_eq_false.2 hadmitted) hnumber hone
  exact ⟨_, hin, rfl, rfl, rfl, State.sameSlots_of_eq rfl rfl, State.sameApdu_of_eq rfl rfl rfl, rfl,
    hin ▸ (s.blockIn_sameOutside B).sameFront⟩

/-- Settles O41: the accepted block is stored, and LAST.CHECK emits. -/
theorem lastBlockEmits : Obligations.LastBlockEmits := by
  intro s B a hadmitted hnumber hroom hlast htotal ha
  have hB : malformed B = false := malformed_eq_false.2 hadmitted
  have hin := State.blockIn_of_accept hB hnumber hroom
  obtain ⟨hevt, hlen, hbytes, habove, hcomplete, hzero, hevents⟩ := State.blockAccept_emits hB hlast htotal ha
  have halen : a.length = s.slotTotal s.count + contentLen B := by
    rw [ha, List.length_append, State.slotContents_length]
    exact congrArg _ (content_length hB)
  exact ⟨_, hin, hevt, hlen, halen, hbytes, habove, hcomplete, hzero, hevents,
    fun i hi => s.blockAccept_slotByte hi, fun x hx => s.blockAccept_read_outside hx,
    hin ▸ (s.blockIn_sameOutside B).sameFront⟩

/-- Settles O44: the mismatch empties the sequence, and only block 1 can start one. -/
theorem mismatchNeedsFreshBlockOne : Obligations.MismatchNeedsFreshBlockOne := by
  intro s B Bs hB hnumber hone
  have hin := State.blockIn_of_mismatch hB hnumber (hone B (by simp))
  rw [List.foldl_cons, hin]
  exact State.blocksIn_other (s := (s.signal .seqMismatch).seqReset) rfl fun C hC => hone C (by simp [hC])

end Sys2Proof.Machine
end

section
/-! PROOFS of FLAG.CLOSE and of the header bytes (40_deframer.md, 42_router.md). A close is the deframer's own part, one
record of writes (`State.closeFrame_eq`), and the router on it, which changes a buffer only with an event that says so
(`State.route_slot_or_stored`, `State.route_apduResult`). -/

namespace Sys2Proof.Machine

/-! ### What a routed frame writes -/

/-- An emission of `a` over the APDU buffer of `s` (rule R126). -/
structure State.writesApdu (s t : State) (a : List Byte) : Prop where
  apduEvt : t.apduEvt = some a
  apduLen : t.apduLen = a.length
  length_le : a.length ≤ 1024
  apdu : t.apdu = s.apdu.writeBytes 0 a
  complete : t.complete = true
  signalled : t.signalled .apduEmit = true

/-- The APDU buffer, its length and its event are kept, or an APDU is emitted. -/
def State.apduResult (s t : State) : Prop := (s.keepsApdu t ∧ t.apdu = s.apdu) ∨ ∃ a, s.writesApdu t a

/-- Writes that keep the APDU change nothing about what comes after them. -/
theorem State.keepsApdu.trans_apduResult {s t u : State} (h : s.keepsApdu t) (ha : t.apdu = s.apdu)
    (h' : t.apduResult u) : s.apduResult u := by
  rcases h' with ⟨keeps, hu⟩ | ⟨a, w⟩
  · exact .inl ⟨h.trans keeps, hu.trans ha⟩
  · exact .inr ⟨a, w.apduEvt, w.apduLen, w.length_le, ha ▸ w.apdu, w.complete, w.signalled⟩

theorem State.lastCheck_apduResult (s : State) (B : List Byte) : s.apduResult (s.lastCheck B) := by
  rcases s.lastCheck_cases B with ⟨_, h⟩ | ⟨_, _, h⟩ | ⟨_, hle, h⟩ <;> rw [h]
  · exact .inl ⟨.refl s, rfl⟩
  · exact .inl ⟨s.seqReset_keepsApdu.trans (State.signal_keepsApdu _ _), rfl⟩
  · exact .inr ⟨_, rfl, (s.slotContents_length s.count).symm, (s.slotContents_length s.count).trans_le hle, rfl, rfl,
      State.signalled_signal _ _⟩

/-- Everything BLOCK_IN can do, with a restart as an accepted block of the empty sequence: an event, perhaps with the
sequence reset, or an accepted block (rule R127). -/
theorem State.blockIn_outcomes (s : State) (B : List Byte) :
    (∃ e, s.blockIn B = s.signal e) ∨ (∃ e, s.blockIn B = (s.signal e).seqReset) ∨
    ∃ b, (b = s ∨ b = s.startOver) ∧ malformed B = false ∧ (blockNumber B).toNat = b.count + 1 ∧ b.count < 50 ∧
      s.blockIn B = b.blockAccept B := by
  rcases s.blockIn_cases B with ⟨_, h⟩ | ⟨_, _, _, h⟩ | ⟨hm, hn, h1, _⟩ | ⟨_, _, _, h⟩ | ⟨hm, hn, hroom, h⟩
  · exact .inl ⟨_, h⟩
  · exact .inr (.inl ⟨_, h⟩)
  · exact .inr (.inr ⟨s.startOver, .inr rfl, hm, blockNumber_eq_one.1 h1, by simp, State.blockIn_of_restart hm hn h1⟩)
  · exact .inr (.inl ⟨_, h⟩)
  · exact .inr (.inr ⟨s, .inl rfl, hm, hn, hroom, h⟩)

theorem State.startOver_keepsApdu (s : State) : s.keepsApdu s.startOver :=
  ((s.signal_keepsApdu _).trans (State.seqReset_keepsApdu _)).trans (State.signal_keepsApdu _ _)

theorem State.blockAccept_apduResult (s : State) (B : List Byte) : s.apduResult (s.blockAccept B) :=
  (s.storeBlock_keepsApdu _ B).trans_apduResult rfl (State.lastCheck_apduResult _ B)

theorem State.blockIn_apduResult (s : State) (B : List Byte) : s.apduResult (s.blockIn B) := by
  rcases s.blockIn_outcomes B with ⟨e, h⟩ | ⟨e, h⟩ | ⟨b, rfl | rfl, _, _, _, h⟩ <;> rw [h]
  · exact .inl ⟨s.signal_keepsApdu _, rfl⟩
  · exact .inl ⟨(s.signal_keepsApdu _).trans (State.seqReset_keepsApdu _), rfl⟩
  · exact b.blockAccept_apduResult B
  · exact s.startOver_keepsApdu.trans_apduResult rfl (State.blockAccept_apduResult _ B)

theorem State.route_apduResult (s : State) (p : List Byte) (valid : Bool) : s.apduResult (s.route p valid) := by
  rcases s.route_cases p valid with ⟨_, h⟩ | ⟨_, _, h⟩ | ⟨_, _, h⟩ <;> rw [h]
  · exact .inl ⟨s.reasmFullReset_keepsApdu, rfl⟩
  · exact .inl ⟨s.signal_keepsApdu _, rfl⟩
  · exact s.blockIn_apduResult _

/-- An accepted block is signalled as stored (rule R120). -/
theorem State.blockAccept_signalled (s : State) (B : List Byte) : (s.blockAccept B).signalled .blockStored = true := by
  have stored : (s.storeBlock (s.count + 1) B).signalled .blockStored = true := State.signalled_signal _ _
  rcases State.lastCheck_adds (s.storeBlock (s.count + 1) B) B with h | ⟨_, h⟩ | h <;> exact h.signalled stored

/-- The block list changes only with BLOCK_STORED. -/
theorem State.route_slot_or_stored (s : State) (p : List Byte) (valid : Bool) :
    (s.route p valid).slot = s.slot ∨ (s.route p valid).signalled .blockStored = true := by
  rcases s.route_cases p valid with ⟨_, h⟩ | ⟨_, _, h⟩ | ⟨_, _, h⟩ <;> rw [h]
  · exact .inl rfl
  · exact .inl rfl
  rcases s.blockIn_outcomes (p.drop (cursor p)) with ⟨e, h⟩ | ⟨e, h⟩ | ⟨b, _, _, _, _, h⟩ <;> rw [h]
  · exact .inl rfl
  · exact .inl rfl
  · exact .inr (b.blockAccept_signalled _)

/-! ### The close (rule R80) -/

/-- The deframer's part of a close as one record of writes. -/
theorem State.closeFrame_eq (s : State) : s.closeFrame =
    { s with
      pos := 0
      frameEvt := some ⟨s.payload, fcsValid s.payload s.storedFcs⟩
      framePort := some ⟨s.payload.length, fcsValid s.payload s.storedFcs⟩
      evt := s.evt ||| (if fcsValid s.payload s.storedFcs then 0x0001 else 0x0002) } := by
  rw [State.closeFrame, State.signal]
  cases fcsValid s.payload s.storedFcs <;> rfl

/-- What a close leaves outside the reassembler. -/
theorem State.close_sameOutside (s : State) :
    s.closeFrame.sameOutside (s.closeFrame.route s.payload (fcsValid s.payload s.storedFcs)) :=
  State.route_sameOutside _ _ _

/-! ### The obligations -/

/-- Settles O15: STORE of the byte itself, below the buffer's end. -/
theorem headerBytesStored : Obligations.HeaderBytesStored := by
  intro s i v hesc hpos hi
  have hexec : exec i s = .next (s.store v) := by
    rcases hi with ⟨rfl, rfl, _⟩ | ⟨rfl, rfl⟩ <;> rfl
  obtain ⟨tesc, treasm, tresults, tmodel, tstored, -⟩ := State.store_result v hesc
  obtain ⟨tpos, tbyte, trest, tevt⟩ := tstored (by omega)
  exact ⟨_, hexec, tpos, tbyte, trest, tesc, tevt, treasm, tresults, tmodel⟩

/-- Settles O20: the payload and its validity are what the close reads from the buffer. -/
theorem flagCloseResult : Obligations.FlagCloseResult := by
  intro s _ _
  refine ⟨s.payload, fcsValid s.payload s.storedFcs, s.payload_length, fun i hi => ?_, s.fcsValid_stored_iff, ?_⟩
  · exact s.payload_getElem? (s.payload_length ▸ hi)
  · rw [exec_flagClose, s.closeFrame_eq]

/-- Settles O21: the router writes outside the reassembler nothing, and a buffer only with its event. -/
theorem flagCloseFrame : Obligations.FlagCloseFrame := by
  intro s _ hesc _
  have outside := s.close_sameOutside
  refine ⟨_, exec_flagClose s, outside.pos, outside.esc.trans hesc, State.sameFbuf_of_eq outside.fbuf outside.epoch,
    ⟨outside.inputs, outside.epoch, outside.draws⟩, fun hstored => ?_, fun hemit => ?_, fun hemit hreset => ?_⟩
  · have hslot := (State.route_slot_or_stored _ _ _).resolve_right (Bool.eq_false_iff.1 hstored)
    exact State.sameSlots_of_eq hslot outside.epoch
  · rcases State.route_apduResult _ _ _ with ⟨keeps, hapdu⟩ | ⟨a, w⟩
    · exact ⟨State.sameApdu_of_eq hapdu keeps.apduLen outside.epoch, keeps.apduEvt⟩
    · exact absurd w.signalled (Bool.eq_false_iff.1 hemit)
  · rcases State.route_apduResult _ _ _ with ⟨keeps, _⟩ | ⟨a, w⟩
    · exact keeps.complete.resolve_right fun h => absurd h.2 (Bool.eq_false_iff.1 hreset)
    · exact absurd w.signalled (Bool.eq_false_iff.1 hemit)

/-- Settles O32: the valid close, with the tag at the router's cursor. -/
theorem gbtFrameForwarded : Obligations.GbtFrameForwarded := by
  intro s c _ _ hfcs hc htag
  have hok : fcsValid s.payload s.storedFcs = true := s.fcsValid_stored_iff.2 hfcs
  rw [← cursor_eq] at hc
  subst hc
  rw [exec_flagClose, hok, State.route_of_gbt _ htag, s.closeFrame_eq, hok]
  rfl

end Sys2Proof.Machine
end

section
/-! PROOFS of what every step keeps (10_state.md section 2, 20_memory.md section 1). An invariant holds after a step as
soon as the step's start, the full reset, RESET and a consumed byte keep it (`step_keeps`); a byte other than a closing
flag leaves everything behind the deframer alone (`exec_decodeByte_front_or_close`). -/

namespace Sys2Proof.Machine

/-! ### The step by its parts -/

/-- An invariant is kept by a step if each part of the step keeps it; a byte finds `pos` as it was before the step and no
frame event (rule R136). -/
theorem step_keeps {P : State → Prop} {s t : State} (h : step s = .next t) (hs : P s) (reset : P s.beginStep.resetBlock)
    (start : P s → P s.beginStep) (full : ∀ b, P b → P b.reasmFullReset)
    (byte : ∀ b u d, P b → b.pos = s.pos → b.frameEvt = none → exec (decodeByte b.pos b.esc d) b = .next u → P u) :
    P t := by
  rcases step_cases h with ⟨_, rfl⟩ | ⟨_, b, hb, rfl | ⟨_, hbyte⟩⟩
  · exact reset
  · rcases hb with ⟨rfl, _⟩ | ⟨rfl, _⟩
    · exact start hs
    · exact full _ (start hs)
  · rcases hb with ⟨rfl, _⟩ | ⟨rfl, _⟩
    · exact byte _ _ _ (start hs) rfl rfl hbyte
    · exact byte _ _ _ (full _ (start hs)) rfl rfl hbyte

/-- What a byte other than a closing flag never writes: all but the deframer's registers, the frame buffer and the event
vector. -/
structure State.sameBehind (s t : State) : Prop where
  slot : t.slot = s.slot
  count : t.count = s.count
  complete : t.complete = s.complete
  apdu : t.apdu = s.apdu
  apduLen : t.apduLen = s.apduLen
  frameEvt : t.frameEvt = s.frameEvt
  apduEvt : t.apduEvt = s.apduEvt
  framePort : t.framePort = s.framePort
  epoch : t.epoch = s.epoch

/-- A consumed byte leaves everything behind the deframer alone, or closes the frame. -/
theorem exec_decodeByte_front_or_close {s t : State} {d : Byte} (h : exec (decodeByte s.pos s.esc d) s = .next t) :
    s.sameBehind t ∨
    (9 ≤ s.pos ∧ t = s.closeFrame.route s.payload (fcsValid s.payload s.storedFcs)) := by
  rcases exec_decodeByte_cases s d with ⟨_, _, _, e⟩ | ⟨_, _, h9, e⟩ | ⟨_, _, e⟩ | ⟨_, _, e⟩ | ⟨_, e⟩ <;>
    obtain rfl := Host.Outcome.next.inj (e.symm.trans h)
  · exact .inl ⟨rfl, rfl, rfl, rfl, rfl, rfl, rfl, rfl, rfl⟩
  · exact .inr ⟨h9, rfl⟩
  · exact .inl ⟨rfl, rfl, rfl, rfl, rfl, rfl, rfl, rfl, rfl⟩
  · exact .inl ⟨rfl, rfl, rfl, rfl, rfl, rfl, rfl, rfl, rfl⟩
  · exact .inl ⟨rfl, rfl, rfl, rfl, rfl, rfl, rfl, rfl, rfl⟩

/-- No block that a closed frame forwards is longer than a slot (rule R40). -/
theorem State.block_length_le {s : State} (hpos : s.pos ≤ 1024) :
    (s.payload.drop (cursor s.payload)).length ≤ 1024 := by
  rw [List.length_drop, s.payload_length]
  omega

/-! ### The deframer (rules R18, R19) -/

theorem DeframerInv.of_same {s t : State} (h : DeframerInv s) (hpos : t.pos = s.pos) (hesc : t.esc = s.esc)
    (hfbuf : t.fbuf = s.fbuf) : DeframerInv t where
  pos_le := hpos ▸ h.pos_le
  esc_pos := by rw [hpos, hesc]; exact h.esc_pos
  written := by rw [hpos, hfbuf]; exact h.written

theorem exec_decodeByte_deframerInv {s t : State} {d : Byte} (h : DeframerInv s)
    (ht : exec (decodeByte s.pos s.esc d) s = .next t) : DeframerInv t := by
  rcases exec_decodeByte_cases s d with ⟨hesc, _, _, e⟩ | ⟨hesc, _, _, e⟩ | ⟨_, h9, e⟩ | ⟨v, hlt, e⟩ | ⟨_, e⟩ <;>
    obtain rfl := Host.Outcome.next.inj (e.symm.trans ht)
  · refine ⟨by simp, by simp [hesc], fun i hi => ?_⟩
    obtain rfl : i = 0 := Nat.lt_one_iff.1 hi
    simp [Memory.read_write]
  · have outside := s.close_sameOutside
    exact ⟨by simp [outside.pos], by simp [outside.esc, hesc], by simp [outside.pos]⟩
  · exact ⟨h.pos_le, fun _ => h9, h.written⟩
  · refine ⟨hlt, by simp, fun i hi => ?_⟩
    rw [Memory.read_write]
    split
    · rfl
    · next hne => exact h.written i (Nat.lt_of_le_of_ne (Nat.le_of_lt_succ hi) hne)
  · exact ⟨Nat.zero_le _, nofun, nofun⟩

/-! ### The reassembler (rules R22, R23) -/

theorem ReasmInv.of_same {s t : State} (h : ReasmInv s) (hcount : t.count = s.count) (hslot : t.slot = s.slot) :
    ReasmInv t where
  count_le := hcount ▸ h.count_le
  holds := by simp only [State.slotHolds, hcount, hslot]; exact h.holds

/-- An empty sequence meets the invariant, whatever the slots hold. -/
theorem ReasmInv.of_count_zero {s : State} (h : s.count = 0) : ReasmInv s :=
  ⟨by omega, fun k h1 h2 => by omega⟩

/-- A block stored in the next slot leaves the earlier slots' blocks where they are. -/
theorem State.slotHolds.storeBlock {s : State} {k n : Nat} {B : List Byte} (h : s.slotHolds k) (hk : 1 ≤ k)
    (hlt : k < n) : (s.storeBlock n B).slotHolds k := by
  obtain ⟨C, hadmitted, hfits, hnumber, hlast, hbytes⟩ := h
  refine ⟨C, hadmitted, hfits, hnumber, hlast, fun i hi => ?_⟩
  have hbelow : slotAddr k i < slotAddr n 0 := slotAddr_lt hk hlt (by omega)
  rw [State.storeBlock_slot, Memory.read_writeBytes_outside (.inl hbelow), hbytes i hi]

/-- The slot that received an admitted block holds it. -/
theorem State.storeBlock_slotHolds {s : State} {n : Nat} {B : List Byte} (h : malformed B = false)
    (hfits : B.length ≤ 1024) (hnumber : (blockNumber B).toNat = n) (hlast : isLast B = false) :
    (s.storeBlock n B).slotHolds n := by
  refine ⟨B, malformed_eq_false.1 h, hfits, hnumber, hlast, fun i hi => ?_⟩
  rw [State.storeBlock_slot, Memory.read_writeBytes, slotAddr_eq n i, if_pos (by omega), Nat.add_sub_cancel_left]

theorem State.blockAccept_reasmInv {s : State} {B : List Byte} (h : ReasmInv s) (hB : malformed B = false)
    (hfits : B.length ≤ 1024) (hnumber : (blockNumber B).toNat = s.count + 1) (hroom : s.count < 50) :
    ReasmInv (s.blockAccept B) := by
  rw [State.blockAccept]
  rcases (s.storeBlock (s.count + 1) B).lastCheck_cases B with ⟨hlast, e⟩ | ⟨_, _, e⟩ | ⟨_, _, e⟩ <;> rw [e]
  · refine ⟨hroom, fun k hk hle => ?_⟩
    rcases Nat.lt_or_eq_of_le hle with hlt | rfl
    · exact (h.holds k hk (Nat.le_of_lt_succ hlt)).storeBlock hk hlt
    · exact State.storeBlock_slotHolds hB hfits hnumber hlast
  · exact .of_count_zero rfl
  · exact .of_count_zero rfl

theorem State.route_reasmInv {s : State} {p : List Byte} {valid : Bool} (h : ReasmInv s)
    (hfits : (p.drop (cursor p)).length ≤ 1024) : ReasmInv (s.route p valid) := by
  rcases s.route_cases p valid with ⟨_, e⟩ | ⟨_, _, e⟩ | ⟨_, _, e⟩ <;> rw [e]
  · exact .of_count_zero rfl
  · exact h.of_same rfl rfl
  rcases s.blockIn_outcomes (p.drop (cursor p)) with ⟨e, h'⟩ | ⟨e, h'⟩ | ⟨b, hb, hB, hnumber, hroom, h'⟩ <;> rw [h']
  · exact h.of_same rfl rfl
  · exact .of_count_zero rfl
  · have start : ReasmInv b := by
      rcases hb with rfl | rfl
      · exact h
      · exact .of_count_zero rfl
    exact State.blockAccept_reasmInv start hB hfits hnumber hroom

/-! ### The memories (20_memory.md rule R37) -/

theorem MemoryInv.of_same {s t : State} (h : MemoryInv s) (hfbuf : t.fbuf = s.fbuf) (hslot : t.slot = s.slot)
    (hapdu : t.apdu = s.apdu) : MemoryInv t :=
  ⟨hfbuf ▸ h.fbuf, hslot ▸ h.slot, hapdu ▸ h.apdu⟩

theorem State.blockAccept_memoryInv {s : State} {B : List Byte} (h : MemoryInv s) (hfits : B.length ≤ 1024)
    (hroom : s.count < 50) : MemoryInv (s.blockAccept B) := by
  have stored : MemoryInv (s.storeBlock (s.count + 1) B) :=
    ⟨h.fbuf, Memory.wf_writeBytes h.slot (by simp only [slotAddr, Config.gbtSlotBytes]; omega), h.apdu⟩
  rw [State.blockAccept]
  rcases (s.storeBlock (s.count + 1) B).lastCheck_cases B with ⟨_, e⟩ | ⟨_, _, e⟩ | ⟨_, htotal, e⟩ <;> rw [e]
  · exact stored
  · exact stored.of_same rfl rfl rfl
  · have fits : 0 + ((s.storeBlock (s.count + 1) B).slotContents (s.count + 1)).length ≤ 1024 := by
      rwa [State.slotContents_length, Nat.zero_add]
    exact ⟨stored.fbuf, stored.slot, Memory.wf_writeBytes stored.apdu fits⟩

theorem State.route_memoryInv {s : State} {p : List Byte} {valid : Bool} (h : MemoryInv s)
    (hfits : (p.drop (cursor p)).length ≤ 1024) : MemoryInv (s.route p valid) := by
  rcases s.route_cases p valid with ⟨_, e⟩ | ⟨_, _, e⟩ | ⟨_, _, e⟩ <;> rw [e]
  · exact h.of_same rfl rfl rfl
  · exact h.of_same rfl rfl rfl
  rcases s.blockIn_outcomes (p.drop (cursor p)) with ⟨e, h'⟩ | ⟨e, h'⟩ | ⟨b, hb, _, _, hroom, h'⟩ <;> rw [h']
  · exact h.of_same rfl rfl rfl
  · exact h.of_same rfl rfl rfl
  · have start : MemoryInv b := by
      rcases hb with rfl | rfl
      · exact h
      · exact h.of_same rfl rfl rfl
    exact State.blockAccept_memoryInv start hfits hroom

theorem exec_decodeByte_memoryInv {s t : State} {d : Byte} (h : MemoryInv s) (hpos : s.pos ≤ 1024)
    (ht : exec (decodeByte s.pos s.esc d) s = .next t) : MemoryInv t := by
  rcases exec_decodeByte_cases s d with ⟨_, _, _, e⟩ | ⟨_, _, _, e⟩ | ⟨_, _, e⟩ | ⟨v, hlt, e⟩ | ⟨_, e⟩ <;>
    obtain rfl := Host.Outcome.next.inj (e.symm.trans ht)
  · exact ⟨Memory.wf_write h.fbuf (by omega), h.slot, h.apdu⟩
  · exact State.route_memoryInv (h.of_same rfl rfl rfl) (State.block_length_le hpos)
  · exact h.of_same rfl rfl rfl
  · exact ⟨Memory.wf_write h.fbuf hlt, h.slot, h.apdu⟩
  · exact h.of_same rfl rfl rfl

/-! ### The outputs (rules R26, R35, R145, R146) -/

/-- What a close shows of its frame: the payload, in the event, on the port and still in the buffer. -/
theorem State.close_shows {s t : State} (ht : t = s.closeFrame.route s.payload (fcsValid s.payload s.storedFcs)) :
    t.frameEvt = some ⟨s.payload, fcsValid s.payload s.storedFcs⟩ ∧
    t.framePort = some ⟨s.payload.length, fcsValid s.payload s.storedFcs⟩ ∧
    ∀ i, i < s.payload.length → t.fbufByte (1 + i) = s.payload.getD i 0 := by
  have outside := s.close_sameOutside
  rw [← ht] at outside
  refine ⟨outside.frameEvt, outside.framePort, fun i hi => ?_⟩
  rw [State.sameFbuf_of_eq outside.fbuf outside.epoch (1 + i), List.getD_eq_getElem?_getD,
    s.payload_getElem? (s.payload_length ▸ hi)]
  rfl

/-- The bytes of an emitted APDU are listed in the APDU buffer. -/
theorem State.writesApdu.read {s t : State} {a : List Byte} (w : s.writesApdu t a) {i : Nat} (hi : i < a.length) :
    t.apdu.read i = a[i]? := by
  rw [w.apdu, Memory.read_writeBytes, if_pos (by omega), Nat.sub_zero]

/-- A close keeps the invariant: its APDU clauses by what the router does to the APDU, its frame clauses by what the
close shows. -/
theorem State.close_outputInv {s t : State} (h : OutputInv s) (hpos : s.pos ≤ 1024) (h9 : 9 ≤ s.pos)
    (ht : t = s.closeFrame.route s.payload (fcsValid s.payload s.storedFcs)) : OutputInv t := by
  obtain ⟨hevt, hport, hbytes⟩ := State.close_shows ht
  have port : ∀ p, t.framePort = some p → 6 ≤ p.len ∧ p.len ≤ 1021 := by
    intro p hp
    obtain rfl := Option.some.inj (hport.symm.trans hp)
    simp only [s.payload_length]; omega
  have frame : ∀ f, t.frameEvt = some f → t.framePort = some ⟨f.payload.length, f.valid⟩ ∧
      ∀ i, i < f.payload.length → t.fbufByte (1 + i) = f.payload.getD i 0 := by
    intro f hf
    obtain rfl := Option.some.inj (hevt.symm.trans hf)
    exact ⟨hport, hbytes⟩
  have apdu : s.closeFrame.apduResult t := ht ▸ State.route_apduResult _ _ _
  rcases apdu with ⟨keeps, hapdu⟩ | ⟨a, w⟩
  · refine ⟨?_, ?_, ?_, port, frame⟩
    · rw [keeps.apduLen]; exact h.apduLen_le
    · rw [keeps.apduLen, hapdu]; exact h.apduWritten
    · rw [keeps.apduLen, keeps.apduEvt, hapdu]; exact h.apduEvt_eq
  · refine ⟨w.apduLen ▸ w.length_le, fun i hi => ?_, fun a' ha' => ?_, port, frame⟩
    · rw [w.apduLen] at hi
      rw [w.read hi, List.getElem?_eq_getElem hi]; rfl
    · obtain rfl := Option.some.inj (w.apduEvt.symm.trans ha')
      exact ⟨w.apduLen.symm, fun i hi => w.read hi⟩

/-- Without a frame event in the record, a state with the same APDU and the same port, or none, meets the invariant. -/
theorem OutputInv.of_same {s t : State} (h : OutputInv s) (hlen : t.apduLen = s.apduLen) (hapdu : t.apdu = s.apdu)
    (hevt : t.apduEvt = s.apduEvt ∨ t.apduEvt = none) (hport : t.framePort = s.framePort ∨ t.framePort = none)
    (hframe : t.frameEvt = none) : OutputInv t where
  apduLen_le := hlen ▸ h.apduLen_le
  apduWritten := by rw [hlen, hapdu]; exact h.apduWritten
  apduEvt_eq := by
    rw [hlen, hapdu]
    rcases hevt with e | e
    · rw [e]; exact h.apduEvt_eq
    · simp [e]
  framePort_len := by
    rcases hport with e | e
    · rw [e]; exact h.framePort_len
    · simp [e]
  frameEvt_eq := by simp [hframe]

/-! ### The obligations -/

/-- Settles O52: only a consumed byte touches the deframer. -/
theorem stepKeepsDeframerInv : Obligations.StepKeepsDeframerInv := by
  intro s t hs h
  exact step_keeps h hs ⟨Nat.zero_le _, nofun, nofun⟩ (fun h => h.of_same rfl rfl rfl) (fun _ h => h.of_same rfl rfl rfl)
    fun _ _ _ h _ _ => exec_decodeByte_deframerInv h

/-- Settles O53: only a closed frame stores a block, and its block fits a slot because `pos` is at most 1024. -/
theorem stepKeepsReasmInv : Obligations.StepKeepsReasmInv := by
  intro s t hd hs h
  refine step_keeps h hs (.of_count_zero rfl) (fun h => h.of_same rfl rfl) (fun _ _ => .of_count_zero rfl) ?_
  intro b u d hb hpos _ hu
  rcases exec_decodeByte_front_or_close hu with same | ⟨_, rfl⟩
  · exact hb.of_same same.count same.slot
  · exact State.route_reasmInv (hb.of_same rfl rfl) (State.block_length_le (hpos ▸ hd.pos_le))

/-- Settles O54: every write is below `pos`, in the next slot, or among the first 1024 bytes of the APDU. -/
theorem stepKeepsMemoryInv : Obligations.StepKeepsMemoryInv := by
  intro s t hd hs h
  refine step_keeps h hs ⟨Memory.wf_nil _, Memory.wf_nil _, Memory.wf_nil _⟩ (fun h => h.of_same rfl rfl rfl)
    (fun _ h => h.of_same rfl rfl rfl) ?_
  intro b u d hb hpos _ hu
  exact exec_decodeByte_memoryInv hb (hpos ▸ hd.pos_le) hu

/-- Settles O55: only a closed frame gives an event, and the frame and the APDU it gives are what the buffers hold. -/
theorem stepKeepsOutputInv : Obligations.StepKeepsOutputInv := by
  intro s t hd hs h
  refine step_keeps h hs ⟨Nat.zero_le _, nofun, nofun, nofun, nofun⟩ (fun h => ?_) (fun b hb => ?_) ?_
  · refine h.of_same rfl rfl (.inr rfl) ?_ rfl
    rw [State.beginStep_framePort]
    split
    · exact .inr rfl
    · exact .inl rfl
  · exact ⟨hb.apduLen_le, hb.apduWritten, hb.apduEvt_eq, hb.framePort_len, hb.frameEvt_eq⟩
  · intro b u d hb hpos hframe hu
    rcases exec_decodeByte_front_or_close hu with same | ⟨h9, hclose⟩
    · exact hb.of_same same.apduLen same.apdu (.inl same.apduEvt) (.inl same.framePort) (same.frameEvt.trans hframe)
    · exact State.close_outputInv hb (hpos ▸ hd.pos_le) h9 hclose

end Sys2Proof.Machine
end

section
/-! PROOFS of what a step does to the ports and the registers (10_state.md, 44_control.md section 2,
70_reset_and_hazards.md section 2). A frame event comes from a close alone (`step_frameEvt`), and outside RESET the APDU
is kept or emitted (`step_apduResult`). -/

namespace Sys2Proof.Machine

/-! ### The frame event of a step -/

/-- The payload depends on the buffer, its unspecified bytes and `pos`. -/
theorem State.payload_congr {s t : State} (hfbuf : t.fbuf = s.fbuf) (hepoch : t.epoch = s.epoch) (hpos : t.pos = s.pos) :
    t.payload = s.payload := by
  simp only [State.payload, State.fbufSlice, hpos]
  exact List.map_congr_left fun i _ => State.sameFbuf_of_eq hfbuf hepoch i

/-- A step with a frame event closed a frame: the payload is the one held before the step, and the port shows it. -/
theorem step_frameEvt {s t : State} {f : FrameEvent} (h : step s = .next t) (hf : t.frameEvt = some f) :
    9 ≤ s.pos ∧ f.payload = s.payload ∧ t.framePort = some ⟨f.payload.length, f.valid⟩ ∧
    ∀ i, i < f.payload.length → t.fbufByte (1 + i) = f.payload.getD i 0 := by
  rcases step_cases h with ⟨_, rfl⟩ | ⟨_, b, hb, ht⟩
  · cases hf
  have start : b.frameEvt = none ∧ b.pos = s.pos ∧ b.payload = s.payload := by
    rcases hb with ⟨rfl, _⟩ | ⟨rfl, _⟩ <;> exact ⟨rfl, rfl, State.payload_congr rfl rfl rfl⟩
  obtain ⟨hnone, hpos, hpayload⟩ := start
  rcases ht with rfl | ⟨_, hbyte⟩
  · simp [hnone] at hf
  rcases exec_decodeByte_front_or_close hbyte with same | ⟨h9, hclose⟩
  · simp [same.frameEvt, hnone] at hf
  · obtain ⟨hevt, hport, hbytes⟩ := State.close_shows hclose
    obtain rfl := Option.some.inj (hevt.symm.trans hf)
    exact ⟨hpos ▸ h9, hpayload, hport, hbytes⟩

/-- A step without RESET and without a byte is its start, or the full reset of it. -/
theorem step_without_byte {s t : State} (h : step s = .next t) (hrst : s.nextPins.rst = false)
    (hbyte : s.nextPins.inValid = false) : t = s.beginStep ∨ t = s.beginStep.reasmFullReset := by
  rcases step_cases h with ⟨hr, _⟩ | ⟨_, b, hb, rfl | ⟨hv, _⟩⟩
  · simp [hrst] at hr
  · exact hb.imp And.left And.left
  · simp [hbyte] at hv

/-! ### The APDU of a step -/

/-- A consumed byte keeps the APDU or emits one, and takes no new draw. -/
theorem exec_decodeByte_apduResult {s t : State} {d : Byte} (h : exec (decodeByte s.pos s.esc d) s = .next t) :
    s.apduResult t ∧ t.epoch = s.epoch := by
  rcases exec_decodeByte_front_or_close h with same | ⟨_, rfl⟩
  · obtain ⟨v, -, hadds⟩ := exec_decodeByte_adds h
    exact ⟨.inl ⟨⟨same.apduLen, same.apduEvt, .inl same.complete, v, hadds⟩, same.apdu⟩, same.epoch⟩
  · exact ⟨s.closeFrame_keepsApdu.trans_apduResult rfl (State.route_apduResult _ _ _), s.close_sameOutside.epoch⟩

/-- A step is RESET, or from its start the APDU is kept or emitted. -/
theorem step_apduResult {s t : State} (h : step s = .next t) :
    (s.nextPins.rst = true ∧ t = s.beginStep.resetBlock) ∨
    (s.nextPins.rst = false ∧ s.beginStep.apduResult t ∧ t.epoch = s.epoch) := by
  rcases step_cases h with hrst | ⟨hrst, b, hb, ht⟩
  · exact .inl hrst
  have start : s.beginStep.keepsApdu b ∧ b.apdu = s.apdu ∧ b.epoch = s.epoch := by
    rcases hb with ⟨rfl, _⟩ | ⟨rfl, _⟩
    · exact ⟨.refl _, rfl, rfl⟩
    · exact ⟨State.reasmFullReset_keepsApdu _, rfl, rfl⟩
  obtain ⟨keeps, hapdu, hepoch⟩ := start
  refine .inr ⟨hrst, ?_⟩
  rcases ht with rfl | ⟨_, hbyte⟩
  · exact ⟨.inl ⟨keeps, hapdu⟩, hepoch⟩
  · obtain ⟨result, hepoch'⟩ := exec_decodeByte_apduResult hbyte
    exact ⟨keeps.trans_apduResult hapdu result, hepoch'.trans hepoch⟩

/-- The APDU buffer after an emission, through its reads. -/
theorem State.writesApdu.apduByte {s t : State} {a : List Byte} (w : s.writesApdu t a) {i : Nat} (hi : i < a.length) :
    t.apduByte i = a.getD i 0 := by
  rw [State.apduByte, w.read hi, List.getD_eq_getElem?_getD, List.getElem?_eq_getElem hi]; rfl

/-! ### `pos` and `count` -/

theorem exec_decodeByte_pos {s t : State} {d : Byte} (h : exec (decodeByte s.pos s.esc d) s = .next t) :
    t.pos = s.pos ∨ t.pos = s.pos + 1 ∨ t.pos = 0 := by
  rcases exec_decodeByte_cases s d with ⟨_, _, h1, e⟩ | ⟨_, _, _, e⟩ | ⟨_, _, e⟩ | ⟨_, _, e⟩ | ⟨_, e⟩ <;>
    obtain rfl := Host.Outcome.next.inj (e.symm.trans h)
  · simp only; omega
  · exact .inr (.inr s.close_sameOutside.pos)
  · exact .inl rfl
  · exact .inr (.inl rfl)
  · exact .inr (.inr rfl)

/-- `count` after an accepted block. -/
theorem State.blockAccept_count (s : State) (B : List Byte) :
    (s.blockAccept B).count = s.count + 1 ∨ (s.blockAccept B).count = 0 := by
  rw [State.blockAccept]
  rcases (s.storeBlock (s.count + 1) B).lastCheck_cases B with ⟨_, e⟩ | ⟨_, _, e⟩ | ⟨_, _, e⟩ <;> rw [e]
  · exact .inl rfl
  · exact .inr rfl
  · exact .inr rfl

/-- `count` moves up only with a stored block: by 1, or to 1 in a restart. -/
theorem State.route_count (s : State) (p : List Byte) (valid : Bool) :
    (s.route p valid).count = s.count ∨ (s.route p valid).count = 0 ∨
    ((s.route p valid).signalled .blockStored = true ∧
      ((s.route p valid).count = s.count + 1 ∨ (s.route p valid).count = 1)) := by
  rcases s.route_cases p valid with ⟨_, e⟩ | ⟨_, _, e⟩ | ⟨_, _, e⟩ <;> rw [e]
  · exact .inr (.inl rfl)
  · exact .inl rfl
  rcases s.blockIn_outcomes (p.drop (cursor p)) with ⟨e, h⟩ | ⟨e, h⟩ | ⟨b, hb, _, _, _, h⟩ <;> rw [h]
  · exact .inl rfl
  · exact .inr (.inl rfl)
  · rcases b.blockAccept_count (p.drop (cursor p)) with hc | hc
    · refine .inr (.inr ⟨b.blockAccept_signalled _, ?_⟩)
      rcases hb with rfl | rfl
      · exact .inl hc
      · exact .inr hc
    · exact .inr (.inl hc)

theorem exec_decodeByte_count {s t : State} {d : Byte} (h : exec (decodeByte s.pos s.esc d) s = .next t) :
    t.count = s.count ∨ t.count = 0 ∨
    (t.signalled .blockStored = true ∧ (t.count = s.count + 1 ∨ t.count = 1)) := by
  rcases exec_decodeByte_front_or_close h with same | ⟨_, rfl⟩
  · exact .inl same.count
  · exact s.closeFrame.route_count _ _

/-! ### The obligations -/

/-- Settles O24: the event is a close's, of a payload of `pos - 3` bytes with `pos` from 9 to 1024. -/
theorem payloadLengthBounds : Obligations.PayloadLengthBounds := by
  intro s t f hpos h hf
  obtain ⟨h9, hpayload, -, -⟩ := step_frameEvt h hf
  rw [hpayload, s.payload_length]
  omega

/-- Settles O46: the closing step leaves the payload on the port, and a step without a byte leaves the port and the
frame buffer. -/
theorem framePortShowsPayload : Obligations.FramePortShowsPayload := by
  constructor
  · intro s t f hpos h hf
    obtain ⟨h9, -, hport, hbytes⟩ := step_frameEvt h hf
    obtain ⟨hlen, -, hle⟩ := payloadLengthBounds s t f hpos h hf
    obtain ⟨hok, hlenOut, -⟩ := State.framePort_valid hport
    refine ⟨by rw [State.frameValidEvt, hf]; rfl, hok, ?_, hport, fun addr ha => ?_⟩
    · rw [hlenOut]
      exact toNat_ofNat_of_lt (by simp only; omega)
    · rw [State.frameRdData_of_lt hport ha, hbytes _ ha]
  · intro s t p h hrst hbyte hport
    have kept : t.framePort = some p ∧ t.frameEvt = none ∧ s.sameFbuf t := by
      have start : s.beginStep.framePort = some p := by
        rw [State.beginStep_framePort, consumesByte, hbyte, Bool.false_and, if_neg Bool.false_ne_true, hport]
      rcases step_without_byte h hrst hbyte with rfl | rfl <;>
        exact ⟨start, rfl, State.sameFbuf_of_eq rfl rfl⟩
    obtain ⟨hport', hevt, hfbuf⟩ := kept
    obtain ⟨hok, hlen, -⟩ := State.framePort_valid hport
    obtain ⟨hok', hlen', -⟩ := State.framePort_valid hport'
    refine ⟨hport', hok'.trans hok.symm, hlen'.trans hlen.symm, by rw [State.frameValidEvt, hevt]; rfl,
      fun addr ha => ?_⟩
    rw [State.frameRdData_of_lt hport' ha, State.frameRdData_of_lt hport ha, hfbuf]

/-- Settles O45: an emission writes the port's bytes and its length, and any other step but RESET writes neither. -/
theorem apduPortShowsEmittedApdu : Obligations.ApduPortShowsEmittedApdu := by
  constructor
  · intro s t a h hevt
    rcases step_apduResult h with ⟨_, rfl⟩ | ⟨_, ⟨keeps, _⟩ | ⟨a', w⟩, _⟩
    · cases hevt
    · cases keeps.apduEvt.symm.trans hevt
    · obtain rfl := Option.some.inj (w.apduEvt.symm.trans hevt)
      have hle := w.length_le
      refine ⟨hle, ?_, w.complete, fun addr ha => ?_⟩
      · rw [State.status, w.apduLen]
        exact toNat_ofNat_of_lt (by omega)
      · rw [State.apduRdData, w.apduLen, if_pos ha, w.apduByte ha]
  · intro s t h hrst hevt
    rcases step_apduResult h with ⟨hr, _⟩ | ⟨_, ⟨keeps, hapdu⟩ | ⟨a', w⟩, hepoch⟩
    · simp [hrst] at hr
    · have hlen : t.apduLen = s.apduLen := keeps.apduLen
      refine ⟨by rw [State.status, hlen]; rfl, fun addr ha => ?_⟩
      rw [State.apduRdData, State.apduRdData, hlen, if_pos ha, if_pos ha]
      exact (State.sameApdu_of_eq hapdu hlen hepoch).2 _
    · cases w.apduEvt.symm.trans hevt

/-- Settles O50: RESET clears both, the full reset clears `count`, and a byte moves them as the deframer and the
reassembler do. -/
theorem posAndCountMoves : Obligations.PosAndCountMoves := by
  intro s t h
  rcases step_cases h with ⟨_, rfl⟩ | ⟨_, b, hb, ht⟩
  · exact ⟨.inr (.inr rfl), .inr (.inr (.inl rfl))⟩
  have start : b.pos = s.pos ∧ (b.count = s.count ∨ b.count = 0) := by
    rcases hb with ⟨rfl, _⟩ | ⟨rfl, _⟩
    · exact ⟨rfl, .inl rfl⟩
    · exact ⟨rfl, .inr rfl⟩
  obtain ⟨hpos, hcount⟩ := start
  rcases ht with rfl | ⟨_, hbyte⟩
  · exact ⟨.inl hpos, hcount.imp_right fun h0 => .inr (.inl h0)⟩
  · refine ⟨hpos ▸ exec_decodeByte_pos hbyte, ?_⟩
    rcases exec_decodeByte_count hbyte with hc | hc | ⟨hstored, hc⟩
    · omega
    · exact .inr (.inr (.inl hc))
    · rcases hcount with h' | h' <;> simp only [hstored, and_true] <;> omega

end Sys2Proof.Machine
end

section
/-! PROOFS of noninterference (10_state.md section 4, 70_reset_and_hazards.md section 1): stale and unspecified bytes have
no effect. `SameVisible` is kept by each operation of the block on the instructions that the decoder selects, so by every
word of a step. -/

namespace Sys2Proof.Machine

/-! ### What agreeing states read alike -/

theorem SameVisible.slotLen {s s' : State} (h : SameVisible s s') {k : Nat} (hk : 1 ≤ k) (hle : k ≤ s.count) :
    s'.slotLen k = s.slotLen k := by
  rw [State.slotLen, State.slotLen, h.slot k hk hle 6 (by omega)]

theorem SameVisible.slotContent {s s' : State} (h : SameVisible s s') {k : Nat} (hk : 1 ≤ k) (hle : k ≤ s.count) :
    s'.slotContent k = s.slotContent k := by
  rw [State.slotContent, State.slotContent, h.slotLen hk hle]
  refine List.map_congr_left fun i hi => h.slot k hk hle i ?_
  rw [List.mem_range'_1] at hi
  exact hi.2

theorem SameVisible.slotContents {s s' : State} (h : SameVisible s s') :
    s'.slotContents s'.count = s.slotContents s.count := by
  rw [h.count]
  exact State.slotContents_congr fun k hk hle => h.slotContent hk hle

theorem SameVisible.slotTotal {s s' : State} (h : SameVisible s s') : s'.slotTotal s'.count = s.slotTotal s.count := by
  rw [← State.slotContents_length, ← State.slotContents_length, h.slotContents]

theorem SameVisible.payload {s s' : State} (h : SameVisible s s') : s'.payload = s.payload := by
  rw [State.payload, State.payload, State.fbufSlice, State.fbufSlice, h.pos]
  refine List.map_congr_left fun i hi => ?_
  rw [List.mem_range'_1] at hi
  exact h.fbuf i hi.1 (by omega)

theorem SameVisible.storedFcs {s s' : State} (h : SameVisible s s') (h9 : 9 ≤ s.pos) : s'.storedFcs = s.storedFcs := by
  rw [State.storedFcs, State.storedFcs, h.pos, h.fbuf _ (by omega) (by omega), h.fbuf _ (by omega) (by omega)]

theorem SameVisible.nextPins {s s' : State} (h : SameVisible s s') : s'.nextPins = s.nextPins := by
  rw [State.nextPins, State.nextPins, h.inputs]

/-- The output record is made of what agrees. -/
theorem SameVisible.record {s s' : State} (h : SameVisible s s') : s'.record = s.record := by
  simp only [State.record, State.status, h.evt, h.frameEvt, h.apduEvt, h.pos, h.esc, h.count, h.complete, h.apduLen]

/-! ### The operations keep the agreement -/

theorem SameVisible.signal {s s' : State} (h : SameVisible s s') (e : Event) : SameVisible (s.signal e) (s'.signal e) :=
  { h with evt := by simp [h.evt] }

/-- With no block stored no slot's byte is read. -/
theorem SameVisible.seqReset {s s' : State} (h : SameVisible s s') : SameVisible s.seqReset s'.seqReset :=
  { h with
    count := rfl
    slot := fun _ hk h0 => absurd (hk.trans h0) (Nat.not_succ_le_zero 0) }

theorem SameVisible.reasmFullReset {s s' : State} (h : SameVisible s s') :
    SameVisible s.reasmFullReset s'.reasmFullReset :=
  { h.seqReset with
    complete := rfl
    evt := by simp [h.evt] }

theorem SameVisible.overflowFrame {s s' : State} (h : SameVisible s s') : SameVisible s.overflowFrame s'.overflowFrame :=
  { h with
    pos := rfl
    esc := rfl
    evt := by simp [h.evt]
    fbuf := fun _ _ h0 => absurd h0 (Nat.not_lt_zero _) }

theorem SameVisible.setEsc {s s' : State} (h : SameVisible s s') (b : Bool) :
    SameVisible { s with esc := b } { s' with esc := b } :=
  ⟨h.pos, rfl, h.count, h.complete, h.apduLen, h.evt, h.frameEvt, h.apduEvt, h.framePort, h.inputs, h.fbuf, h.slot,
    h.apdu, h.shown⟩

/-- RESET makes every register and every output but the record agree, and every byte stale. -/
theorem SameVisible.resetBlock {s s' : State} (h : SameVisible s s') : SameVisible s.resetBlock s'.resetBlock where
  pos := rfl
  esc := rfl
  count := rfl
  complete := rfl
  apduLen := rfl
  evt := h.evt
  frameEvt := h.frameEvt
  apduEvt := h.apduEvt
  framePort := rfl
  inputs := h.inputs
  fbuf _ _ h0 := absurd h0 (Nat.not_lt_zero _)
  slot _ hk h0 := absurd (hk.trans h0) (Nat.not_succ_le_zero 0)
  apdu _ h0 := absurd h0 (Nat.not_lt_zero _)
  shown _ h0 := absurd h0 (Nat.not_lt_zero _)

/-- The same byte written at the same index of the frame buffer, with `pos` behind it or unchanged bytes below it. -/
theorem SameVisible.writeFbuf {s s' : State} (h : SameVisible s s') (a n : Nat) (v : Byte)
    (hn : ∀ i, 1 ≤ i → i < n → i = a ∨ i < s.pos) :
    SameVisible { s with fbuf := s.fbuf.write a v, pos := n }
      { s' with fbuf := s'.fbuf.write a v, pos := n } := by
  have byte : ∀ i, (i ≠ a → s'.fbufByte i = s.fbufByte i) →
      State.fbufByte { s' with fbuf := s'.fbuf.write a v, pos := n } i =
        State.fbufByte { s with fbuf := s.fbuf.write a v, pos := n } i := by
    intro i hi
    simp only [State.fbufByte, Memory.read_write] at hi ⊢
    split
    · rfl
    · next hne => exact hi hne
  exact { h with
    pos := rfl
    fbuf := fun i h1 hlt => byte i fun hne => h.fbuf i h1 ((hn i h1 hlt).resolve_left hne)
    shown := fun i hi => byte (1 + i) fun _ => h.shown i hi }

theorem SameVisible.store {s s' : State} (h : SameVisible s s') (v : Byte) : SameVisible (s.store v) (s'.store v) := by
  rcases s.store_cases v with ⟨hlt, e⟩ | ⟨hge, e⟩ <;> rw [e]
  · rw [State.store_of_lt (h.pos ▸ hlt), h.pos]
    exact h.writeFbuf s.pos (s.pos + 1) v fun i _ hi => by omega
  · rw [State.store_of_ge (h.pos ▸ hge)]
    exact h.overflowFrame

/-- An admitted block stored in the next slot: its own bytes agree, and those of the earlier slots are not touched. -/
theorem SameVisible.storeBlock {s s' : State} (h : SameVisible s s') {B : List Byte} (hB : malformed B = false) :
    SameVisible (s.storeBlock (s.count + 1) B) (s'.storeBlock (s'.count + 1) B) := by
  have hlen : 7 + contentLen B ≤ B.length := malformed_eq_false.1 hB
  rw [h.count]
  refine { h with count := rfl, evt := by simp [h.evt], slot := fun k hk hle i hi => ?_ }
  rw [State.storeBlock_count] at hle
  rcases Nat.lt_or_eq_of_le hle with hlt | rfl
  · have hlen' : s.slotLen k < 256 := s.slotLen_lt k
    rw [(s.storeBlock_slotContent_earlier B hk hlt).2] at hi
    rw [s'.storeBlock_slotByte_earlier B hk hlt (by omega), s.storeBlock_slotByte_earlier B hk hlt (by omega)]
    exact h.slot k hk (Nat.le_of_lt_succ hlt) i hi
  · rw [State.storeBlock_slotLen_own _ _ _ hB] at hi
    rw [State.storeBlock_slotByte_own _ _ _ _ (by omega), State.storeBlock_slotByte_own _ _ _ _ (by omega)]

/-- An emission writes the same bytes, as many as the APDU's length. -/
theorem SameVisible.emitApdu {s s' : State} (h : SameVisible s s') : SameVisible s.emitApdu s'.emitApdu := by
  refine { h.seqReset with
    complete := rfl, apduLen := h.slotTotal, evt := by simp [h.evt], apduEvt := by simp [h.slotContents],
    apdu := fun i hi => ?_ }
  rw [State.emitApdu_apduLen, ← State.slotContents_length] at hi
  rw [State.emitApdu_apduByte, State.emitApdu_apduByte, h.slotContents, if_pos hi, if_pos hi]

theorem SameVisible.blockAccept {s s' : State} (h : SameVisible s s') {B : List Byte} (hB : malformed B = false) :
    SameVisible (s.blockAccept B) (s'.blockAccept B) := by
  have stored := h.storeBlock hB
  rw [State.blockAccept, State.blockAccept, State.lastCheck, State.lastCheck, stored.slotTotal]
  split
  · split
    · exact stored.seqReset.signal _
    · exact stored.emitApdu
  · exact stored

theorem SameVisible.blockIn {s s' : State} (h : SameVisible s s') (B : List Byte) :
    SameVisible (s.blockIn B) (s'.blockIn B) := by
  rcases s.blockIn_cases B with ⟨hm, e⟩ | ⟨hm, hn, h1, e⟩ | ⟨hm, hn, h1, _⟩ | ⟨hm, hn, hfull, e⟩ | ⟨hm, hn, hroom, e⟩
  · rw [e, s'.blockIn_of_malformed hm]
    exact h.signal _
  · rw [e, State.blockIn_of_mismatch hm (h.count ▸ hn) h1]
    exact (h.signal _).seqReset
  · rw [State.blockIn_of_restart hm hn h1, State.blockIn_of_restart hm (h.count ▸ hn) h1]
    exact (((h.signal _).seqReset).signal _).blockAccept hm
  · rw [e, State.blockIn_of_slotFull hm (h.count ▸ hn) (h.count ▸ hfull)]
    exact (h.signal _).seqReset
  · rw [e, State.blockIn_of_accept hm (h.count ▸ hn) (h.count ▸ hroom)]
    exact h.blockAccept hm

theorem SameVisible.route {s s' : State} (h : SameVisible s s') (p : List Byte) (valid : Bool) :
    SameVisible (s.route p valid) (s'.route p valid) := by
  rw [State.route, State.route]
  split
  · split
    · exact h.blockIn _
    · exact h.signal _
  · exact h.reasmFullReset

/-- A close in a state with a whole frame: the bytes that the port then shows are the payload's. -/
theorem SameVisible.closeFrame {s s' : State} (h : SameVisible s s') (h9 : 9 ≤ s.pos) :
    SameVisible s.closeFrame s'.closeFrame := by
  rw [State.closeFrame_eq, State.closeFrame_eq, h.payload, h.storedFcs h9, h.evt]
  refine { h with
    pos := rfl, evt := rfl, frameEvt := rfl, framePort := rfl, fbuf := fun _ _ h0 => absurd h0 (Nat.not_lt_zero _),
    shown := fun i hi => h.fbuf (1 + i) (by omega) ?_ }
  have hi' : i < s.payload.length := hi
  rw [s.payload_length] at hi'
  omega

/-- A step's start shows no more of a frame than the state before it. -/
theorem State.beginStep_shownLen_le (s : State) : s.beginStep.shownLen ≤ s.shownLen := by
  rw [State.shownLen, State.beginStep_framePort]
  cases consumesByte s.nextPins
  · exact le_rfl
  · exact Nat.zero_le _

theorem SameVisible.beginStep {s s' : State} (h : SameVisible s s') : SameVisible s.beginStep s'.beginStep :=
  { h with
    evt := rfl
    frameEvt := rfl
    apduEvt := rfl
    framePort := by simp [h.nextPins, h.framePort]
    inputs := by simp [h.inputs]
    shown := fun i hi => h.shown i (hi.trans_le s.beginStep_shownLen_le) }

/-- An instruction that the decoder selects keeps the agreement. -/
theorem SameVisible.exec {s s' t : State} {i : Instr} (h : SameVisible s s') (hi : i.selected s.pos s.esc = true)
    (ht : exec i s = .next t) : ∃ t', Machine.exec i s' = .next t' ∧ SameVisible t t' := by
  cases i <;> obtain rfl := Host.Outcome.next.inj ht <;> refine ⟨_, rfl, ?_⟩
  case idle => exact h
  case flagOpen => exact h.writeFbuf 0 1 _ fun i h1 hlt => by omega
  case flagHdr => exact h.store _
  case flagClose =>
    have h9 : 9 ≤ s.pos := (by simpa [Instr.selected] using hi : s.esc = false ∧ 9 ≤ s.pos).2
    rw [h.payload, h.storedFcs h9]
    exact (h.closeFrame h9).route _ _
  case escSet => exact h.setEsc true
  case escHdr => exact h.store _
  case unesc d => exact (h.setEsc false).store _
  case dataStore => exact h.store _
  case overflow => exact h.overflowFrame
  case reasmReset => exact h.reasmFullReset
  case reset => exact h.resetBlock

theorem SameVisible.runWords {s s' t : State} {ws : List OpWord} (h : SameVisible s s') (ht : runWords ws s = .next t) :
    ∃ t', Machine.runWords ws s' = .next t' ∧ SameVisible t t' := by
  induction ws generalizing s s' with
  | nil =>
    obtain rfl := Host.Outcome.next.inj ht
    exact ⟨s', rfl, h⟩
  | cons w ws ih =>
    obtain ⟨u, hu⟩ := exec_total (decode s.pos s.esc w) s
    obtain ⟨u', hu', same⟩ := h.exec (decodedRowIsSelected s.pos s.esc w).2 hu
    rw [Machine.runWords, hu] at ht
    obtain ⟨t', ht', same'⟩ := ih same ht
    refine ⟨t', ?_, same'⟩
    rw [Machine.runWords, h.pos, h.esc, hu']
    exact ht'

/-! ### The obligation -/

/-- Settles O57: the same words run on starts that agree. -/
theorem staleBytesInvisible : Obligations.StaleBytesInvisible := by
  intro s s' t h ht
  obtain ⟨t', ht', same⟩ := h.beginStep.runWords ht
  exact ⟨t', by rw [step, h.nextPins]; exact ht', same, same.record⟩

end Sys2Proof.Machine
end

section
/-! PROOFS of byte streams (40_deframer.md sections 3 and 4): what a run of bytes inside a frame stores. A run signals
nothing (`quietly`) and stores its bytes from `pos` on (`State.stores`); both compose, so a header or a stuffed
information field follows from its bytes. -/

namespace Sys2Proof.Machine

/-! ### Quiet runs -/

/-- The record reports no event. -/
def OutputRecord.quiet (r : OutputRecord) : Prop := r.evt = 0 ∧ r.frameEvt = none ∧ r.apduEvt = none

/-- The bytes `ds` lead from `s` to `t` with no event. -/
def quietly (ds : List Byte) (s t : State) : Prop :=
  ∃ rs, observe (byteOps ds) s = some (rs, t) ∧ ∀ r ∈ rs, r.quiet

/-- The state that a step gives to the byte it consumes (rule R136). -/
def State.byteStart (s : State) : State :=
  { s with evt := 0, frameEvt := none, apduEvt := none, framePort := none, draws := s.draws + 1 }

/-- A run of one byte is one call of `exec`. -/
theorem observe_byte {s t : State} {d : Byte} (h : exec (decodeByte s.pos s.esc d) s.byteStart = .next t) :
    observe (byteOps [d]) s = some ([t.record], t) :=
  observe_cons h

theorem quietly.nil (s : State) : quietly [] s s := ⟨[], rfl, by simp⟩

theorem quietly.single {s t : State} {d : Byte} (h : exec (decodeByte s.pos s.esc d) s.byteStart = .next t)
    (ht : t.record.quiet) : quietly [d] s t :=
  ⟨[t.record], observe_byte h, by simpa using ht⟩

/-- A run of bytes in two parts. -/
theorem observe_byteOps_append {ds es : List Byte} {s t u : State} {qs rs : List OutputRecord}
    (h : observe (byteOps ds) s = some (qs, t)) (h' : observe (byteOps es) t = some (rs, u)) :
    observe (byteOps (ds ++ es)) s = some (qs ++ rs, u) := by
  have hops : byteOps (ds ++ es) = byteOps ds ++ byteOps es := List.map_append
  rw [hops, observe_append h, h']
  rfl

/-- A quiet run before another one. -/
theorem quietly.observe_append {ds es : List Byte} {s t u : State} {rs : List OutputRecord} (h : quietly ds s t)
    (h' : observe (byteOps es) t = some (rs, u)) :
    ∃ qs, (∀ r ∈ qs, r.quiet) ∧ observe (byteOps (ds ++ es)) s = some (qs ++ rs, u) := by
  obtain ⟨qs, hobs, hquiet⟩ := h
  exact ⟨qs, hquiet, observe_byteOps_append hobs h'⟩

theorem quietly.append {ds es : List Byte} {s t u : State} (h : quietly ds s t) (h' : quietly es t u) :
    quietly (ds ++ es) s u := by
  obtain ⟨rs, hobs, hquiet⟩ := h'
  obtain ⟨qs, hquiet', hobs'⟩ := h.observe_append hobs
  refine ⟨qs ++ rs, hobs', fun r hr => ?_⟩
  exact (List.mem_append.1 hr).elim (hquiet' r) (hquiet r)

/-! ### Stored bytes -/

/-- Consecutive writes in two parts. -/
theorem Memory.writeBytes_append (m : Memory) (a : Nat) (xs ys : List Byte) :
    m.writeBytes a (xs ++ ys) = (m.writeBytes a xs).writeBytes (a + xs.length) ys := by
  induction xs generalizing m a with
  | nil => rfl
  | cons x xs ih =>
    rw [List.cons_append, Memory.writeBytes, Memory.writeBytes, ih, List.length_cons, Nat.add_right_comm, Nat.add_assoc]

/-- Everything behind the deframer, but the outputs of the step, is the same. -/
structure State.sameStored (s t : State) : Prop where
  slot : t.slot = s.slot
  count : t.count = s.count
  complete : t.complete = s.complete
  apdu : t.apdu = s.apdu
  apduLen : t.apduLen = s.apduLen
  epoch : t.epoch = s.epoch

theorem State.sameStored.trans {s t u : State} (h : s.sameStored t) (h' : t.sameStored u) : s.sameStored u :=
  ⟨h'.slot.trans h.slot, h'.count.trans h.count, h'.complete.trans h.complete, h'.apdu.trans h.apdu,
    h'.apduLen.trans h.apduLen, h'.epoch.trans h.epoch⟩

theorem State.sameStored.sameReasm {s t : State} (h : s.sameStored t) : s.sameReasm t :=
  ⟨h.count, h.complete, State.sameSlots_of_eq h.slot h.epoch, State.sameApdu_of_eq h.apdu h.apduLen h.epoch⟩

/-- `t` is `s` with the bytes `xs` stored from `pos` on, and no escape pending. -/
structure State.stores (s t : State) (xs : List Byte) : Prop where
  behind : s.sameStored t
  fbuf : t.fbuf = s.fbuf.writeBytes s.pos xs
  pos : t.pos = s.pos + xs.length
  esc : t.esc = false

theorem State.stores.nil {s : State} (h : s.esc = false) : s.stores s [] :=
  ⟨⟨rfl, rfl, rfl, rfl, rfl, rfl⟩, rfl, rfl, h⟩

theorem State.stores.append {s t u : State} {xs ys : List Byte} (h : s.stores t xs) (h' : t.stores u ys) :
    s.stores u (xs ++ ys) where
  behind := h.behind.trans h'.behind
  fbuf := by rw [h'.fbuf, h.fbuf, h.pos, Memory.writeBytes_append]
  pos := by rw [h'.pos, h.pos, List.length_append, Nat.add_assoc]
  esc := h'.esc

/-- A stored byte is read back. -/
theorem State.stores.fbufByte {s t : State} {xs : List Byte} (h : s.stores t xs) {i : Nat} (hi : i < xs.length) :
    t.fbufByte (s.pos + i) = xs.getD i 0 := by
  rw [State.fbufByte, h.fbuf, Memory.read_writeBytes, if_pos (by omega), Nat.add_sub_cancel_left,
    List.getElem?_eq_getElem hi, List.getD_eq_getElem _ _ hi]
  rfl

/-- The bytes before `pos` are kept. -/
theorem State.stores.fbufByte_below {s t : State} {xs : List Byte} (h : s.stores t xs) {i : Nat} (hi : i < s.pos) :
    t.fbufByte i = s.fbufByte i := by
  rw [State.fbufByte, h.fbuf, Memory.read_writeBytes_outside (.inl hi), h.behind.epoch, State.fbufByte]

/-! ### One byte of a frame -/

/-- A byte whose instruction is STORE of `v` below the buffer's end stores `v` quietly. -/
theorem quietly_of_store {s : State} {d v : Byte} (hlt : s.pos < 1024)
    (h : exec (decodeByte s.pos s.esc d) s.byteStart = .next (State.store { s.byteStart with esc := false } v)) :
    ∃ t, quietly [d] s t ∧ s.stores t [v] := by
  rw [State.store_of_lt (s := { s.byteStart with esc := false }) hlt] at h
  exact ⟨_, .single h ⟨rfl, rfl, rfl⟩, ⟨rfl, rfl, rfl, rfl, rfl, rfl⟩, rfl, rfl, rfl⟩

theorem State.byteStart_of_esc {s : State} (h : s.esc = false) : { s.byteStart with esc := false } = s.byteStart := by
  rw [← h]; rfl

/-- A byte that is no flag and no escape is stored as it is (rule R84). -/
theorem quietly_dataByte {s : State} {d : Byte} (hesc : s.esc = false) (hlt : s.pos < 1024) (hf : d ≠ Config.flag)
    (hx : d ≠ Config.escape) : ∃ t, quietly [d] s t ∧ s.stores t [d] := by
  refine quietly_of_store hlt ?_
  rw [State.byteStart_of_esc hesc, hesc, decodeByte_dataStore hf hx (by omega)]
  rfl

/-- A header byte is stored as it is, a flag only behind the first header byte (rules R79, R82, R84). -/
theorem quietly_headerByte {s : State} {d : Byte} (hesc : s.esc = false) (h8 : s.pos ≤ 8)
    (hflag : d = Config.flag → 2 ≤ s.pos) : ∃ t, quietly [d] s t ∧ s.stores t [d] := by
  by_cases hf : d = Config.flag
  · refine quietly_of_store (by omega) ?_
    rw [State.byteStart_of_esc hesc, hesc, hf, decodeByte_flagHdr ⟨hflag hf, h8⟩]
    rfl
  by_cases hx : d = Config.escape
  · refine quietly_of_store (by omega) ?_
    rw [State.byteStart_of_esc hesc, hesc, hx, decodeByte_escHdr h8]
    rfl
  · exact quietly_dataByte hesc (by omega) hf hx

/-- An escape byte behind the header sets `esc` and does nothing else to the registers and buffers (rule R81). -/
theorem quietly_escape {s : State} (h9 : 9 ≤ s.pos) : quietly [Config.escape] s { s.byteStart with esc := true } := by
  refine .single ?_ ⟨rfl, rfl, rfl⟩
  rw [decodeByte_escSet _ h9]
  rfl

/-- Behind an escape any byte but another escape is stored unescaped (rule R83). -/
theorem quietly_unescape {s : State} {d : Byte} (hesc : s.esc = true) (hd : d ≠ Config.escape) (hlt : s.pos < 1024) :
    ∃ t, quietly [d] s t ∧ s.stores t [d ^^^ Config.escXor] := by
  refine quietly_of_store hlt ?_
  rw [hesc, decodeByte_unesc fun h => hd h.1]
  rfl

/-- A flag at the start opens a frame (rule R78). -/
theorem quietly_flagOpen {s : State} (hesc : s.esc = false) (h1 : s.pos ≤ 1) :
    quietly [Config.flag] s { s.byteStart with fbuf := s.fbuf.write 0 Config.flag, pos := 1 } := by
  refine .single ?_ ⟨rfl, rfl, rfl⟩
  rw [hesc, decodeByte_flagOpen h1]
  rfl

/-- An escape and the byte behind it are one stored byte (rules R81, R83). -/
theorem quietly_escapedByte {s : State} {d : Byte} (h9 : 9 ≤ s.pos) (hd : d ≠ Config.escape) (hlt : s.pos < 1024) :
    ∃ t, quietly [Config.escape, d] s t ∧ s.stores t [d ^^^ Config.escXor] := by
  obtain ⟨t, hquiet, hstores⟩ := quietly_unescape (s := { s.byteStart with esc := true }) rfl hd hlt
  obtain ⟨⟨hslot, hcount, hcomplete, hapdu, hlen, hepoch⟩, hfbuf, hpos, hesc⟩ := hstores
  exact ⟨t, (quietly_escape h9).append hquiet, ⟨hslot, hcount, hcomplete, hapdu, hlen, hepoch⟩, hfbuf, hpos, hesc⟩

/-- The stuffed form of a byte stores that byte (rule R94). -/
theorem quietly_stuffByte {s : State} (x : Byte) (hesc : s.esc = false) (h9 : 9 ≤ s.pos) (hlt : s.pos < 1024) :
    ∃ t, quietly (stuffByte x) s t ∧ s.stores t [x] := by
  rw [stuffByte]
  split
  next h =>
    have hne : x ^^^ Config.escXor ≠ Config.escape := by rcases h with rfl | rfl <;> decide
    have hback : x ^^^ Config.escXor ^^^ Config.escXor = x := by rw [BitVec.xor_assoc, BitVec.xor_self, BitVec.xor_zero]
    obtain ⟨t, hquiet, hstores⟩ := quietly_escapedByte h9 hne hlt
    exact ⟨t, hquiet, hback ▸ hstores⟩
  next h =>
    obtain ⟨hf, hx⟩ := not_or.1 h
    exact quietly_dataByte hesc hlt hf hx

/-! ### Runs of bytes -/

/-- Header bytes are stored as they are, unless a flag comes first. -/
theorem quietly_header {s : State} {h : List Byte} (hesc : s.esc = false) (h1 : 1 ≤ s.pos)
    (hlen : s.pos + h.length ≤ 9) (hhead : s.pos = 1 → h.head? ≠ some Config.flag) :
    ∃ t, quietly h s t ∧ s.stores t h := by
  induction h generalizing s with
  | nil => exact ⟨s, .nil s, .nil hesc⟩
  | cons d ds ih =>
    rw [List.length_cons] at hlen
    have hflag : d = Config.flag → 2 ≤ s.pos := by
      rintro rfl
      have : s.pos ≠ 1 := fun h => hhead h rfl
      omega
    obtain ⟨u, hquiet, hstores⟩ := quietly_headerByte hesc (by omega) hflag
    have hpos : u.pos = s.pos + 1 := hstores.pos
    obtain ⟨t, hquiet', hstores'⟩ := ih hstores.esc (by omega) (by omega) (by omega)
    exact ⟨t, hquiet.append hquiet', hstores.append hstores'⟩

/-- The stuffed form of bytes that fit stores those bytes (rule R94). -/
theorem quietly_stuff {s : State} {xs : List Byte} (hesc : s.esc = false) (h9 : 9 ≤ s.pos)
    (hfit : s.pos + xs.length ≤ 1024) : ∃ t, quietly (stuff xs) s t ∧ s.stores t xs := by
  induction xs generalizing s with
  | nil => exact ⟨s, .nil s, .nil hesc⟩
  | cons x xs ih =>
    rw [List.length_cons] at hfit
    obtain ⟨u, hquiet, hstores⟩ := quietly_stuffByte x hesc h9 (by omega)
    have hpos : u.pos = s.pos + 1 := hstores.pos
    obtain ⟨t, hquiet', hstores'⟩ := ih hstores.esc (by omega) (by omega)
    exact ⟨t, hquiet.append hquiet', hstores.append hstores'⟩

/-! ### The obligations -/

/-- Settles O58: by induction over the bytes, each stored from its stuffed form. -/
theorem stuffRoundTrip : Obligations.StuffRoundTrip := by
  intro s xs hesc h9 hfit
  obtain ⟨t, ⟨rs, hobs, hquiet⟩, hstores⟩ := quietly_stuff hesc h9 hfit
  exact ⟨rs, t, hobs, hstores.pos, hstores.esc, fun i hi => hstores.fbufByte hi, fun i hi => hstores.fbufByte_below hi,
    hstores.behind.sameReasm, fun r hr => (hquiet r hr).1⟩

/-- Settles O22: a second escape finds `esc` set already, and the byte behind it is unescaped; 7E behind an escape is no
flag. -/
theorem escapePairs : Obligations.EscapePairs := by
  intro s h9 hlt
  refine ⟨?_, fun d hd => ?_, ?_⟩
  · obtain ⟨rs, hobs, -⟩ := (quietly_escape h9).append (quietly_escape (s := { s.byteStart with esc := true }) h9)
    exact ⟨rs, _, hobs, rfl, rfl, State.sameFbuf_of_eq rfl rfl⟩
  · obtain ⟨t, hquiet, hstores⟩ := quietly_escapedByte (s := { s.byteStart with esc := true }) h9 hd hlt
    obtain ⟨rs, hobs, -⟩ := (quietly_escape h9).append hquiet
    exact ⟨rs, t, hobs, hstores.esc, hstores.pos, hstores.fbufByte (i := 0) Nat.one_pos⟩
  · obtain ⟨t, ⟨rs, hobs, hquiet⟩, hstores⟩ := quietly_escapedByte (s := s) (d := 0x7E) h9 (by decide) hlt
    exact ⟨rs, t, hobs, hstores.esc, hstores.pos, hstores.fbufByte (i := 0) Nat.one_pos,
      fun r hr => ⟨(hquiet r hr).1, (hquiet r hr).2.1⟩⟩

/-- Settles O23: the stray byte is stored as a header byte would be, and `pos = 1` still opens a frame. -/
theorem frameWithoutOpeningFlag : Obligations.FrameWithoutOpeningFlag := by
  intro s d hesc hpos hd
  obtain ⟨t, hquiet, hstores⟩ := quietly_headerByte hesc (by omega) fun h => absurd h hd
  have htpos : t.pos = 1 := by rw [hstores.pos, hpos]; rfl
  have hbyte : t.fbufByte 0 = d := by simpa [hpos] using hstores.fbufByte (i := 0) Nat.one_pos
  constructor
  · obtain ⟨rs, hobs, -⟩ := hquiet
    exact ⟨rs, t, hobs, htpos, hstores.esc, hbyte⟩
  · obtain ⟨rs, hobs, hquiet'⟩ := hquiet.append (quietly_flagOpen hstores.esc htpos.le)
    refine ⟨rs, _, hobs, rfl, hstores.esc, ?_, fun r hr => (hquiet' r hr).1⟩
    exact (State.fbufByte_of_write (s := t) (t := { t.byteStart with fbuf := t.fbuf.write 0 Config.flag, pos := 1 })
      rfl rfl).1

end Sys2Proof.Machine
end

section
/-! PROOFS of whole frames and transfers on the wire (40_deframer.md section 4, 42_router.md, 43_reassembler.md section 4).
A wire frame runs quietly up to its closing flag, which routes exactly its header and information as a valid payload
(`observe_wireFrame`); a transfer follows by induction over its blocks. -/

namespace Sys2Proof.Machine

/-! ### A frame up to its closing flag -/

/-- The frame buffer behind the flag holds the bytes `xs`: the payload is all of them but the last two. -/
theorem State.stores.payload {o b : State} {p w : List Byte} (h : o.stores b (p ++ w)) (ho : o.pos = 1)
    (hw : w.length = 2) : b.payload = p := by
  have hpos : b.pos = p.length + 3 := by rw [h.pos, ho, List.length_append]; omega
  apply List.ext_getElem?
  intro i
  by_cases hi : i < p.length
  · have hbyte := h.fbufByte (i := i) (by rw [List.length_append]; omega)
    rw [ho] at hbyte
    rw [b.payload_getElem? (by omega), hbyte, List.getD_append _ _ _ _ hi, List.getD_eq_getElem _ _ hi,
      List.getElem?_eq_getElem hi]
  · rw [List.getElem?_eq_none (by rw [b.payload_length]; omega), List.getElem?_eq_none (by omega)]

/-- The stored FCS field is the last two bytes held. -/
theorem State.stores.storedFcs {o b : State} {p : List Byte} {b0 b1 : Byte} (h : o.stores b (p ++ [b0, b1]))
    (ho : o.pos = 1) : b.storedFcs = u16be b0 b1 := by
  have hpos : b.pos = p.length + 3 := by rw [h.pos, ho, List.length_append]; simp; omega
  have first := h.fbufByte (i := p.length) (by simp)
  have second := h.fbufByte (i := p.length + 1) (by simp)
  rw [State.storedFcs, hpos, show p.length + 3 - 2 = o.pos + p.length by omega,
    show p.length + 3 - 1 = o.pos + (p.length + 1) by omega, first, second]
  simp [List.getD_eq_getElem?_getD]

/-- The sender's FCS is valid (rule R100). -/
theorem fcsValid_fcsWire (p : List Byte) :
    fcsValid p (u16be ((fcs p ^^^ 0xFFFF).extractLsb' 0 8) ((fcs p ^^^ 0xFFFF).extractLsb' 8 8)) = true :=
  (fcsValid_u16be_iff p _ _).2 ⟨rfl, rfl⟩

/-- The state that the router finds when the frame with payload `p` closes: the deframer is at its start, and everything
behind it is as it was in `s`, before the frame. -/
structure State.closedFrom (s c : State) (p : List Byte) : Prop where
  behind : s.sameStored c
  pos : c.pos = 0
  esc : c.esc = false
  frameEvt : c.frameEvt = some ⟨p, true⟩
  apduEvt : c.apduEvt = none

/-- A correct frame that fits is consumed quietly up to its closing flag, which closes it as valid and gives its header and
information to the router (rule R95). -/
theorem observe_wireFrame {s : State} {h info : List Byte} (hesc : s.esc = false) (hpos : s.pos ≤ 1)
    (hlen : h.length = 8) (hhead : h.head? ≠ some 0x7E) (hfit : 11 + info.length ≤ 1024) :
    ∃ rs c t, s.closedFrom c (h ++ info) ∧ t = c.route (h ++ info) true ∧ (∀ r ∈ rs, r.quiet) ∧
      observe (byteOps (wireFrame h info)) s = some (rs ++ [t.record], t) := by
  have opened := quietly_flagOpen hesc hpos
  set o : State := { s.byteStart with fbuf := s.fbuf.write 0 Config.flag, pos := 1 } with ho
  have opos : o.pos = 1 := rfl
  obtain ⟨u, hheader, hstores⟩ := quietly_header (s := o) hesc le_rfl (by omega) fun _ => hhead
  have upos : u.pos = 9 := by rw [hstores.pos, hlen]
  obtain ⟨b, hinfo, hstores'⟩ := quietly_stuff (xs := info ++ fcsWire (h ++ info)) hstores.esc (by omega) (by
    simp [upos, fcsWire]; omega)
  have held : o.stores b ((h ++ info) ++ fcsWire (h ++ info)) := by
    rw [List.append_assoc]
    exact hstores.append hstores'
  have hpayload : b.payload = h ++ info := held.payload opos rfl
  have hvalid : fcsValid b.payload b.storedFcs = true := by
    rw [hpayload, State.stores.storedFcs held opos]
    exact fcsValid_fcsWire _
  have bpos : 9 ≤ b.pos := by rw [hstores'.pos]; omega
  have hclose : exec (decodeByte b.pos b.esc Config.flag) b.byteStart =
      .next (b.byteStart.closeFrame.route (h ++ info) true) := by
    rw [hstores'.esc, decodeByte_flagClose bpos, exec_flagClose, ← hpayload, ← hvalid]
    rfl
  have closed : s.closedFrom b.byteStart.closeFrame (h ++ info) := by
    obtain ⟨hslot, hcount, hcomplete, hapdu, hlen, hepoch⟩ := held.behind
    refine ⟨⟨hslot, hcount, hcomplete, hapdu, hlen, hepoch⟩, rfl, held.esc, ?_, rfl⟩
    rw [← hpayload, ← hvalid]
    rfl
  obtain ⟨rs, hquiet, hobs⟩ := ((opened.append hheader).append hinfo).observe_append (observe_byte hclose)
  refine ⟨rs, _, _, closed, rfl, hquiet, ?_⟩
  rw [← hobs, wireFrame]
  simp

/-- Quiet records hold no frame event and no APDU. -/
theorem filterMap_quiet {rs : List OutputRecord} (h : ∀ r ∈ rs, r.quiet) :
    rs.filterMap OutputRecord.frameEvt = [] ∧ rs.filterMap OutputRecord.apduEvt = [] :=
  ⟨List.filterMap_eq_nil_iff.2 fun r hr => (h r hr).2.1, List.filterMap_eq_nil_iff.2 fun r hr => (h r hr).2.2⟩

/-! ### The blocks of a transfer (rules R65 to R67, R75) -/

theorem contentLen_gbt {n : Nat} {l : Bool} {c : List Byte} (h : c.length ≤ 255) : contentLen (gbt n l c) = c.length :=
  toNat_ofNat_of_lt (by omega)

theorem malformed_gbt {n : Nat} {l : Bool} {c : List Byte} (h : c.length ≤ 255) : malformed (gbt n l c) = false := by
  rw [malformed_eq_false, contentLen_gbt h]
  simp [gbt]; omega

theorem isLast_gbt (n : Nat) (l : Bool) (c : List Byte) : isLast (gbt n l c) = l := by
  cases l <;> simp [isLast, gbt]

theorem blockNumber_gbt {n : Nat} (l : Bool) (c : List Byte) (h : n < 65536) :
    (blockNumber (gbt n l c)).toNat = n := by
  show (BitVec.ofNat 8 (n / 256) ++ BitVec.ofNat 8 n : BitVec (8 + 8)).toNat = n
  rw [BitVec.toNat_append, ← Nat.shiftLeft_add_eq_or_of_lt (BitVec.isLt _), BitVec.toNat_ofNat, BitVec.toNat_ofNat,
    Nat.shiftLeft_eq]
  omega

theorem content_gbt {n : Nat} {l : Bool} {c : List Byte} (h : c.length ≤ 255) :
    ((gbt n l c).drop 7).take (contentLen (gbt n l c)) = c := by
  rw [contentLen_gbt h]
  exact List.take_length

/-- A valid payload of a header, an optional LLC header and a block gives the block to the reassembler (rules R107 to
R109). -/
theorem State.route_gbt (s : State) {h llc : List Byte} (n : Nat) (l : Bool) (c : List Byte) (hlen : h.length = 8)
    (hllc : llc = [] ∨ ∃ x, llc = [0xE6, 0xE7, x]) :
    s.route (h ++ (llc ++ gbt n l c)) true = s.blockIn (gbt n l c) := by
  have hbyte : ∀ i (q : List Byte), (h ++ q)[8 + i]? = q[i]? := by
    intro i q
    rw [List.getElem?_append_right (by omega), hlen, Nat.add_sub_cancel_left]
  have hdrop : ∀ i (q : List Byte), (h ++ q).drop (8 + i) = q.drop i := by
    intro i q
    rw [← hlen, List.drop_length_add_append]
  rcases hllc with rfl | ⟨x, rfl⟩
  · have hcursor : cursor (h ++ gbt n l c) = 8 + 0 := cursor_of_not_llc (by rw [hbyte 0]; simp [gbt])
    rw [List.nil_append, s.route_of_gbt (by rw [hcursor, hbyte]; rfl), hcursor, hdrop]
    rfl
  · have hcursor : cursor (h ++ ([0xE6, 0xE7, x] ++ gbt n l c)) = 8 + 3 := by
      rw [cursor_eq, if_pos ⟨hbyte 0 _, hbyte 1 _⟩]
    rw [s.route_of_gbt (by rw [hcursor, hbyte]; rfl), hcursor, hdrop]
    rfl

/-! ### A transfer -/

/-- The wire bytes of the blocks `cs` from number `n` on, framed with the headers and LLC headers `fs`. -/
def transferWire (fs : List (List Byte × List Byte)) (n : Nat) (cs : List (List Byte)) : List Byte :=
  (List.zipWith (fun f B => wireFrame f.1 (f.2 ++ B)) fs (gbtBlocks n cs)).flatten

/-- A frame's header and the LLC header behind it, as a transfer admits them. -/
def frameForm (f : List Byte × List Byte) : Prop :=
  f.1.length = 8 ∧ f.1.head? ≠ some 0x7E ∧ (f.2 = [] ∨ ∃ x, f.2 = [0xE6, 0xE7, x])

/-- The records hold exactly one APDU, `a`, and `t` holds it in the APDU buffer, ready for the next transfer. -/
structure emitsOnce (rs : List OutputRecord) (t : State) (a : List Byte) : Prop where
  records : rs.filterMap OutputRecord.apduEvt = [a]
  complete : t.complete = true
  apduLen : t.apduLen = a.length
  pos : t.pos = 0
  count : t.count = 0
  bytes : ∀ i, i < a.length → t.apduByte i = a.getD i 0

/-- One block's frame is that block on the state in which its frame closed. -/
theorem observe_blockFrame {s : State} {f : List Byte × List Byte} {c : List Byte} (n : Nat) (l : Bool)
    (hesc : s.esc = false) (hpos : s.pos ≤ 1) (hf : frameForm f) (hc : c.length ≤ 255) :
    ∃ rs p b t, s.closedFrom b p ∧ t = b.blockIn (gbt n l c) ∧ (∀ r ∈ rs, r.quiet) ∧
      observe (byteOps (wireFrame f.1 (f.2 ++ gbt n l c))) s = some (rs ++ [t.record], t) := by
  obtain ⟨hlen, hhead, hllc⟩ := hf
  have hfit : 11 + (f.2 ++ gbt n l c).length ≤ 1024 := by
    rcases hllc with h | ⟨x, h⟩ <;> simp [h, gbt] <;> omega
  obtain ⟨rs, b, t, closed, ht, hquiet, hobs⟩ := observe_wireFrame hesc hpos hlen hhead hfit
  exact ⟨rs, _, b, t, closed, ht.trans (b.route_gbt n l c hlen hllc), hquiet, hobs⟩

/-- What is stored does not depend on the frame being received. -/
theorem State.sameStored.slotContents {s t : State} (h : s.sameStored t) (n : Nat) :
    t.slotContents n = s.slotContents n := by
  refine State.slotContents_congr fun k _ _ => ?_
  have hbytes := State.sameSlots_of_eq h.slot h.epoch
  rw [State.slotContent, State.slotContent, State.slotLen, State.slotLen, hbytes k 6]
  exact List.map_congr_left fun i _ => hbytes k i

/-- The frame of the last block emits what is stored and its own content. -/
theorem observe_lastFrame {s : State} {f : List Byte × List Byte} {c : List Byte} (hesc : s.esc = false)
    (hpos : s.pos ≤ 1) (hf : frameForm f) (hc : c.length ≤ 255) (hroom : s.count < 50)
    (htotal : (s.slotContents s.count ++ c).length ≤ 1024) :
    ∃ rs t, observe (byteOps (wireFrame f.1 (f.2 ++ gbt (s.count + 1) true c))) s = some (rs, t) ∧
      emitsOnce rs t (s.slotContents s.count ++ c) := by
  obtain ⟨rs, p, b, t, closed, ht, hquiet, hobs⟩ := observe_blockFrame (s.count + 1) true hesc hpos hf hc
  have bcount : b.count = s.count := closed.behind.count
  have ha : s.slotContents s.count ++ c = b.slotContents b.count ++
      ((gbt (s.count + 1) true c).drop 7).take (contentLen (gbt (s.count + 1) true c)) := by
    rw [bcount, closed.behind.slotContents, content_gbt hc]
  obtain ⟨tevt, tlen, tbytes, -, tcomplete, tcount, -⟩ := State.blockIn_emits (malformed_gbt hc)
    (by rw [blockNumber_gbt _ _ (by omega), bcount]) (by omega) (isLast_gbt _ _ _) ha htotal
  rw [← ht] at tevt tlen tbytes tcomplete tcount
  have outside := b.blockIn_sameOutside (gbt (s.count + 1) true c)
  rw [← ht] at outside
  refine ⟨_, t, hobs, ?_, tcomplete, tlen, outside.pos.trans closed.pos, tcount, tbytes⟩
  rw [List.filterMap_append, (filterMap_quiet hquiet).2]
  simp [State.record, tevt]

/-- The frame of an earlier block appends its content to what is stored, and emits nothing. -/
theorem observe_earlierFrame {s : State} {f : List Byte × List Byte} {c : List Byte} (hesc : s.esc = false)
    (hpos : s.pos ≤ 1) (hf : frameForm f) (hc : c.length ≤ 255) (hroom : s.count < 50) :
    ∃ rs t, observe (byteOps (wireFrame f.1 (f.2 ++ gbt (s.count + 1) false c))) s = some (rs, t) ∧
      rs.filterMap OutputRecord.apduEvt = [] ∧ t.esc = false ∧ t.pos = 0 ∧ t.count = s.count + 1 ∧
      t.slotContents t.count = s.slotContents s.count ++ c := by
  obtain ⟨rs, p, b, t, closed, ht, hquiet, hobs⟩ := observe_blockFrame (s.count + 1) false hesc hpos hf hc
  have bcount : b.count = s.count := closed.behind.count
  obtain ⟨tcount, tevt, -, tcontents⟩ := State.blockIn_appends (s := b) (malformed_gbt hc)
    (by rw [blockNumber_gbt _ _ (by omega), bcount]) (by omega) (isLast_gbt (s.count + 1) false c)
  have outside := b.blockIn_sameOutside (gbt (s.count + 1) false c)
  rw [← ht] at tevt tcount tcontents outside
  refine ⟨_, t, hobs, ?_, outside.esc.trans closed.esc, outside.pos.trans closed.pos, by omega, ?_⟩
  · rw [List.filterMap_append, (filterMap_quiet hquiet).2]
    simp [State.record, tevt, closed.apduEvt]
  · rw [tcount, tcontents, content_gbt hc, bcount, closed.behind.slotContents]

/-- The frames of the remaining blocks of a transfer emit what is stored and their contents, in order. -/
theorem observe_transfer {s : State} {fs : List (List Byte × List Byte)} {cs : List (List Byte)} (hne : cs ≠ [])
    (hesc : s.esc = false) (hpos : s.pos ≤ 1) (hroom : s.count + cs.length ≤ 50) (hlen : fs.length = cs.length)
    (hfs : ∀ f ∈ fs, frameForm f) (hcs : ∀ c ∈ cs, c.length ≤ 255)
    (htotal : (s.slotContents s.count ++ cs.flatten).length ≤ 1024) :
    ∃ rs t, observe (byteOps (transferWire fs (s.count + 1) cs)) s = some (rs, t) ∧
      emitsOnce rs t (s.slotContents s.count ++ cs.flatten) := by
  induction cs generalizing s fs with
  | nil => exact absurd rfl hne
  | cons c cs ih =>
    obtain _ | ⟨f, fs⟩ := fs
    · cases hlen
    have hf : frameForm f := hfs f (by simp)
    have hc : c.length ≤ 255 := hcs c (by simp)
    rw [List.length_cons] at hroom
    cases cs with
    | nil =>
      have hwire : transferWire (f :: fs) (s.count + 1) [c] = wireFrame f.1 (f.2 ++ gbt (s.count + 1) true c) := by
        simp [transferWire, gbtBlocks]
      have hflat : [c].flatten = c := by simp
      rw [hflat] at htotal
      rw [hwire, hflat]
      exact observe_lastFrame hesc hpos hf hc (by omega) htotal
    | cons c' cs =>
      have hwire : transferWire (f :: fs) (s.count + 1) (c :: c' :: cs) =
          wireFrame f.1 (f.2 ++ gbt (s.count + 1) false c) ++ transferWire fs (s.count + 1 + 1) (c' :: cs) := by
        simp [transferWire, gbtBlocks]
      obtain ⟨rs, u, hobs, hnone, uesc, upos, ucount, ucontents⟩ := observe_earlierFrame hesc hpos hf hc (by omega)
      have hall : u.slotContents u.count ++ (c' :: cs).flatten = s.slotContents s.count ++ (c :: c' :: cs).flatten := by
        rw [ucontents, List.flatten_cons (l := c), List.append_assoc]
      obtain ⟨rs', t, hobs', once⟩ := ih (s := u) (fs := fs) (by simp) uesc (by omega) (by omega) (by simpa using hlen)
        (fun g hg => hfs g (by simp [hg])) (fun d hd => hcs d (by simp [hd])) (hall ▸ htotal)
      rw [hall] at once
      rw [ucount] at hobs'
      refine ⟨rs ++ rs', t, hwire ▸ observe_byteOps_append hobs hobs', { once with records := ?_ }⟩
      rw [List.filterMap_append, hnone, once.records]
      rfl

/-! ### The obligations -/

/-- Settles O59: the one record that is not quiet is the closing flag's. -/
theorem frameDelivered : Obligations.FrameDelivered := by
  intro s h info hesc hpos hlen hhead hfit
  obtain ⟨rs, c, t, closed, ht, hquiet, hobs⟩ := observe_wireFrame hesc hpos hlen hhead hfit
  have outside := c.route_sameOutside (h ++ info) true
  rw [← ht] at outside
  have hevt : t.frameEvt = some ⟨h ++ info, true⟩ := outside.frameEvt.trans closed.frameEvt
  refine ⟨_, t, hobs, ?_, hevt, outside.pos.trans closed.pos, outside.esc.trans closed.esc⟩
  rw [List.filterMap_append, (filterMap_quiet hquiet).1]
  simp [State.record, hevt]

/-- Settles O60: the transfer from an empty sequence, in which nothing is stored yet. -/
theorem transferOverTheWire : Obligations.TransferOverTheWire := by
  intro s fs cs hesc hpos hcount hne hroom hlen hfs hcs htotal
  have hstored : s.slotContents s.count ++ cs.flatten = cs.flatten := by rw [hcount]; rfl
  obtain ⟨rs, t, hobs, once⟩ := observe_transfer hne hesc hpos (by omega) hlen hfs hcs
    (by rw [hstored, List.length_flatten]; exact htotal)
  rw [hstored] at once
  rw [hcount] at hobs
  exact ⟨rs, t, hobs, once.records, once.complete, once.apduLen, once.pos, once.count, once.bytes⟩

end Sys2Proof.Machine
end
